-- ==== Sys2Proof/Word.lean ====
section
/-! DEFINITION. The word types of the block (spec 00_scope.md R13): a byte, the 16-bit CRC register and wire
fields, and the 32-bit operands of the interface words. -/

namespace Sys2Proof

/-- A byte, the unit of access (R13, R77). -/
abbrev Byte := BitVec 8

/-- A 16-bit value: the CRC register and every wire field wider than a byte (R13). -/
abbrev Half := BitVec 16

/-- A 32-bit value: an `i32` or `u32` operand (R110), or the attempt counter (R13). -/
abbrev Quad := BitVec 32

end Sys2Proof
end

