-- ==== Sys2Proof/Config.lean ====
section
/-! DEFINITION. The implementation parameters of spec 00_scope.md R12: the fixed ones as constants, the open ones
as a record that the machine takes as an argument (State holds it; log 1). -/

namespace Sys2Proof.Config

/-- `ADDR_MAX`, the largest legal slave address of a request (R12; 90_conflicts.md C2). -/
def addrMax : Int := 247

/-- `CRC_POLY` (R12, R150). -/
def crcPoly : Half := 0xA001#16

/-- `CRC_INIT` (R12, R151). -/
def crcInit : Half := 0xFFFF#16

/-- `CRC_XOROUT`: no final XOR (R12, R151). -/
def crcXorOut : Half := 0x0000#16

/-- `REQ_LEN`, the request frame length (R12, R100). -/
def reqLen : Nat := 8

/-- `RA_MIN`, the least complete response length (R12, R192). -/
def raMin : Nat := 5

/-- `EXTRACT_MODE`: which bytes of a complete buffer go to the parser (R12, R195). The spec leaves it open. -/
inductive ExtractMode
  /-- `WHOLE_BUFFER`, the default: every byte of the buffer. -/
  | wholeBuffer
  /-- `TRUNCATE`: exactly `b[2] + 5` bytes. -/
  | truncate
deriving DecidableEq, Repr

/-- The parameters the spec leaves open, fixed at instantiation (R12, R362 item 1). -/
structure Params where
  /-- `RX_MAX`, `max_bytes` of each transport receive. -/
  rxMax : Nat
  /-- `RX_BUF_CAP`, the capacity of the receive buffer in bytes. -/
  rxBufCap : Nat
  /-- `EXTRACT_MODE`. -/
  extractMode : ExtractMode
deriving DecidableEq, Repr

/-- The ranges R12 gives the open parameters. -/
def Params.legal (p : Params) : Bool :=
  decide (1 ≤ p.rxMax) && decide (p.rxMax ≤ 65535) && decide (259 + p.rxMax ≤ p.rxBufCap)

/-- The parameters 95_test_vectors.md uses throughout: DESIGN CHOICE for State.reset (log 1, unsafe). -/
def Params.vectors : Params := { rxMax := 256, rxBufCap := 515, extractMode := .wholeBuffer }

end Sys2Proof.Config
end

