-- ==== Sys2Proof/Machine/Operands.lean ====
section
/-! DEFINITION. Operand forms: how bytes make up the wider values and how the wider values come apart
(spec 00_scope.md R14, R17; 20_memory.md R73, R74; 30_encoding.md R107, R112). -/

namespace Sys2Proof.Machine

/-- `hi8(v) = v[15:8]` (R17). -/
def hi8 (v : Half) : Byte := v.extractLsb' 8 8

/-- `lo8(v) = v[7:0]` (R17). -/
def lo8 (v : Half) : Byte := v.extractLsb' 0 8

/-- `be16(hi, lo) = (hi << 8) | lo`: a wire field, high byte first (R17, R73). -/
def be16 (hi lo : Byte) : Half := (hi.zeroExtend 16 <<< 8) ||| lo.zeroExtend 16

/-- `le16(lo, hi) = (hi << 8) | lo`: the CRC as it is sent, low byte first (R17, R74). -/
def le16 (lo hi : Byte) : Half := (hi.zeroExtend 16 <<< 8) ||| lo.zeroExtend 16

/-- A 32-bit operand from its four bytes, first byte highest (R110, R112). -/
def be32 (b3 b2 b1 b0 : Byte) : Quad := (b3 ++ b2) ++ (b1 ++ b0)

/-- The four bytes of a 32-bit value, highest first (R110). -/
def bytes32 (v : Quad) : List Byte :=
  [v.extractLsb' 24 8, v.extractLsb' 16 8, v.extractLsb' 8 8, v.extractLsb' 0 8]

/-- The two bytes of a 16-bit value, high byte first (R73, R110). -/
def bytes16 (v : Half) : List Byte := [hi8 v, lo8 v]

/-- An `i32` operand as the integer the rules check, −2^31..2^31−1 (R112). -/
def i32 (v : Quad) : Int := v.toInt

/-- A length as the `u16` field of a word (R110, R120, R130). -/
def len16 (d : List Byte) : Half := BitVec.ofNat 16 d.length

/-- The byte at an offset of a byte sequence. R15: no rule reads at or past the length, so the 0 is never seen. -/
def byteAt (s : List Byte) (i : Nat) : Byte := s.getD i 0#8

/-- A run of bytes taken two at a time, high byte first; an odd last byte is dropped (R227). -/
def halves : List Byte → List Half
  | hi :: lo :: rest => be16 hi lo :: halves rest
  | _ => []

end Sys2Proof.Machine
end

