-- ==== Sys2Proof/Machine/Crc.lean ====
section
/-! DEFINITION. The CRC Engine's function `crc16` (spec 40_crc.md R150, R151, R154), pure and total. -/

namespace Sys2Proof.Machine

/-- One of the eight shift iterations of R150: `>>` fills bit 15 with 0, and a dropped 1 XORs in the polynomial. -/
def crcShift (c : Half) : Half :=
  if c.getLsbD 0 then (c >>> 1) ^^^ Config.crcPoly else c >>> 1

/-- `k` shift iterations (R150: "repeat 8 times"). -/
def crcShifts : Nat → Half → Half
  | 0, c => c
  | k + 1, c => crcShifts k (crcShift c)

/-- `crc_step(c, b)` (R150): the byte enters the low 8 bits, then eight shift iterations. -/
def crcStep (c : Half) (b : Byte) : Half := crcShifts 8 (c ^^^ b.zeroExtend 16)

/-- The register after the bytes of `s`, from register value `c`, in offset order (R151). -/
def crcFrom (c : Half) (s : List Byte) : Half := s.foldl crcStep c

/-- `crc16(s)` (R151): from 0xFFFF, with no final XOR (`CRC_XOROUT` is 0). -/
def crc16 (s : List Byte) : Half := crcFrom Config.crcInit s ^^^ Config.crcXorOut

/-- The two CRC bytes as they stand at the end of a frame, low byte first (R152). -/
def crcBytes (s : List Byte) : List Byte := [lo8 (crc16 s), hi8 (crc16 s)]

/-- The first six bytes of a request frame, the ones its CRC covers (R100, R103). -/
def requestBody (slave fc : Byte) (start count : Half) : List Byte :=
  [slave, fc] ++ bytes16 start ++ bytes16 count

end Sys2Proof.Machine
end

