-- ==== Sys2Proof/Syntax.lean ====
section
/-! DEFINITION. The instructions of the block: one constructor per row of spec/opcode_table.json. R10: the
instruction set is the set of input words (host commands, R111; events, R121); the protocol's own opcodes are the
function codes 0x03 and 0x04, in a request (R100) and in a response (R102). -/

namespace Sys2Proof

/-- Where a word of an instruction stands (the "port" column of the table). -/
inductive Port
  /-- The host port (R86, R111). -/
  | host
  /-- The event port (R86, R121). -/
  | event
  /-- The wire, outgoing: the request frame of OUT_SEND (R100, R130). -/
  | request
  /-- The wire, incoming: the response frame in `rx_buf` (R102, R274). -/
  | response
deriving DecidableEq, Repr

/-- One constructor per row of spec/opcode_table.json. -/
inductive Instr
  /-- `CRC16` 0x01 (R153): the checksum of `d`. -/
  | crc16 (d : List Byte)
  /-- `BUILD` 0x02 (R172): four i32 operands. -/
  | build (slave fc start count : Quad)
  /-- `RA_RESET` 0x03 (R191). -/
  | raReset
  /-- `RA_FEED` 0x04 (R193): one chunk. -/
  | raFeed (d : List Byte)
  /-- `PARSE` 0x05 (R228): one frame. -/
  | parse (f : List Byte)
  /-- `CTL_START` 0x10 (R256): five i32, three u32 and the endpoint. -/
  | ctlStart (slave fc start count maxAttempts timeout retryDelay pollInterval : Quad) (endpoint : List Byte)
  /-- `CTL_CANCEL` 0x11 (R285). -/
  | ctlCancel
  /-- `CTL_STATUS` 0x12 (R289). -/
  | ctlStatus
  /-- `EV_CONNECT_OK` 0x20 (R265). -/
  | evConnectOk
  /-- `EV_CONNECT_REFUSED` 0x21 (R264). -/
  | evConnectRefused
  /-- `EV_CONNECT_ERROR` 0x22 (R266). -/
  | evConnectError
  /-- `EV_SEND_OK` 0x23 (R267). -/
  | evSendOk
  /-- `EV_SEND_ERROR` 0x24 (R271). -/
  | evSendError
  /-- `EV_RX_DATA` 0x25 (R269): one chunk, empty on close. -/
  | evRxData (d : List Byte)
  /-- `EV_RX_ERROR` 0x26 (R270). -/
  | evRxError
  /-- `EV_RX_TIMEOUT` 0x27 (R273). -/
  | evRxTimeout
  /-- `EV_DEADLINE` 0x28 (R272). -/
  | evDeadline
  /-- `EV_TIMER_DONE` 0x29 (R284). -/
  | evTimerDone
  /-- `REQ_ReadHoldingRegisters`: a request frame of function code 0x03 (R100, R171). -/
  | reqReadHoldingRegisters (slave : Byte) (start count : Half) (crcLo crcHi : Byte)
  /-- `REQ_ReadInputRegisters`: a request frame of function code 0x04 (R100, R171). -/
  | reqReadInputRegisters (slave : Byte) (start count : Half) (crcLo crcHi : Byte)
  /-- `RSP_ReadHoldingRegisters`: a response frame of function code 0x03 (R102, R220). -/
  | rspReadHoldingRegisters (slave bc : Byte) (data : List Byte) (crcLo crcHi : Byte)
  /-- `RSP_ReadInputRegisters`: a response frame of function code 0x04 (R102, R220). -/
  | rspReadInputRegisters (slave bc : Byte) (data : List Byte) (crcLo crcHi : Byte)
deriving DecidableEq, Repr

/-- The port on which the words of an instruction stand (R86, R104, R111, R121). -/
def Instr.port : Instr → Port
  | .crc16 _ => .host
  | .build _ _ _ _ => .host
  | .raReset => .host
  | .raFeed _ => .host
  | .parse _ => .host
  | .ctlStart _ _ _ _ _ _ _ _ _ => .host
  | .ctlCancel => .host
  | .ctlStatus => .host
  | .evConnectOk => .event
  | .evConnectRefused => .event
  | .evConnectError => .event
  | .evSendOk => .event
  | .evSendError => .event
  | .evRxData _ => .event
  | .evRxError => .event
  | .evRxTimeout => .event
  | .evDeadline => .event
  | .evTimerDone => .event
  | .reqReadHoldingRegisters _ _ _ _ _ => .request
  | .reqReadInputRegisters _ _ _ _ _ => .request
  | .rspReadHoldingRegisters _ _ _ _ _ => .response
  | .rspReadInputRegisters _ _ _ _ _ => .response

end Sys2Proof
end

