-- ==== Sys2Proof/WellFormed.lean ====
section
/-! DEFINITION. Which terms of `Instr` are instructions of the block: the operands fit the length fields of their
format (spec 30_encoding.md R110, R120), a request frame holds what R100 says its fields hold, and a response frame
has the length its byte-count gives (R102, R106). -/

namespace Sys2Proof

/-- A byte string whose length the u16 length field can hold (R110: n and e are 0..65535). -/
def fitsU16 (d : List Byte) : Bool := decide (d.length ≤ 65535)

/-- The fields of a request frame as R100 and R170 allow them: slave 0..247, count at least 1, the right CRC. -/
def requestFields (slave fc : Byte) (start count : Half) (crcLo crcHi : Byte) : Bool :=
  decide (slave.toNat ≤ 247) && decide (1 ≤ count.toNat) &&
    decide ([crcLo, crcHi] = Machine.crcBytes (Machine.requestBody slave fc start count))

/-- A term of `Instr` that is an instruction of the block. -/
def Instr.wellFormed : Instr → Bool
  | .crc16 d => fitsU16 d
  | .build _ _ _ _ => true
  | .raReset => true
  | .raFeed d => fitsU16 d
  | .parse f => fitsU16 f
  | .ctlStart _ _ _ _ _ _ _ _ endpoint => fitsU16 endpoint
  | .ctlCancel => true
  | .ctlStatus => true
  | .evConnectOk => true
  | .evConnectRefused => true
  | .evConnectError => true
  | .evSendOk => true
  | .evSendError => true
  | .evRxData d => fitsU16 d
  | .evRxError => true
  | .evRxTimeout => true
  | .evDeadline => true
  | .evTimerDone => true
  | .reqReadHoldingRegisters slave start count lo hi => requestFields slave 0x03#8 start count lo hi
  | .reqReadInputRegisters slave start count lo hi => requestFields slave 0x04#8 start count lo hi
  | .rspReadHoldingRegisters _ bc data _ _ => decide (data.length = bc.toNat)
  | .rspReadInputRegisters _ bc data _ _ => decide (data.length = bc.toNat)

end Sys2Proof
end

