-- ==== Sys2Proof/Decode.lean ====
section
/-! DEFINITION. Decoding of words to instructions, total on any bytes and rejecting by name, and the encoder
(spec 30_encoding.md R100, R102, R110 to R114, R120 to R122). -/

namespace Sys2Proof

open Sys2Proof.Machine

/-- Why a byte string is no instruction of a port (R114, R122). -/
inductive Reject
  /-- The word has no byte (R114, R122). -/
  | emptyWord
  /-- Byte 0 of an interface word is no code of the port (R111, R121). -/
  | unknownCode (code : Byte)
  /-- The word is shorter than its format needs, or its length differs from what its format and `n` or `e` give. -/
  | lengthMismatch
  /-- Offset 1 of a wire frame is neither 0x03 nor 0x04 (R104, R105). -/
  | unsupportedFunction (code : Byte)
deriving DecidableEq, Repr

/-- What a byte string stands for on a port: one instruction, or a rejection by name. -/
inductive Decoded
  | ok (i : Instr)
  | reject (why : Reject)
deriving DecidableEq, Repr

/-- Format `H0` or `E0` (R110, R120): nothing after byte 0. -/
def decodeBare (i : Instr) : List Byte → Decoded
  | [] => .ok i
  | _ :: _ => .reject .lengthMismatch

/-- Format `HB` or `EB` (R110, R120): a u16 length and exactly that many bytes. -/
def decodeBlob (mk : List Byte → Instr) : List Byte → Decoded
  | nHi :: nLo :: d => if d.length = (be16 nHi nLo).toNat then .ok (mk d) else .reject .lengthMismatch
  | _ => .reject .lengthMismatch

/-- Format `HBLD` (R110): exactly four 32-bit operands. -/
def decodeBuild : List Byte → Decoded
  | [a3, a2, a1, a0, b3, b2, b1, b0, c3, c2, c1, c0, d3, d2, d1, d0] =>
    .ok (.build (be32 a3 a2 a1 a0) (be32 b3 b2 b1 b0) (be32 c3 c2 c1 c0) (be32 d3 d2 d1 d0))
  | _ => .reject .lengthMismatch

/-- Format `HCFG` (R110): eight 32-bit operands, a u16 length and exactly that many endpoint bytes. -/
def decodeStart : List Byte → Decoded
  | a3 :: a2 :: a1 :: a0 :: b3 :: b2 :: b1 :: b0 :: c3 :: c2 :: c1 :: c0 :: d3 :: d2 :: d1 :: d0 ::
    m3 :: m2 :: m1 :: m0 :: t3 :: t2 :: t1 :: t0 :: r3 :: r2 :: r1 :: r0 :: p3 :: p2 :: p1 :: p0 ::
    eHi :: eLo :: ep =>
    if ep.length = (be16 eHi eLo).toNat then
      .ok (.ctlStart (be32 a3 a2 a1 a0) (be32 b3 b2 b1 b0) (be32 c3 c2 c1 c0) (be32 d3 d2 d1 d0)
        (be32 m3 m2 m1 m0) (be32 t3 t2 t1 t0) (be32 r3 r2 r1 r0) (be32 p3 p2 p1 p0) ep)
    else .reject .lengthMismatch
  | _ => .reject .lengthMismatch

/-- A host command word (R111, R114). -/
def decodeHost : List Byte → Decoded
  | [] => .reject .emptyWord
  | op :: rest =>
    if op = 0x01#8 then decodeBlob .crc16 rest
    else if op = 0x02#8 then decodeBuild rest
    else if op = 0x03#8 then decodeBare .raReset rest
    else if op = 0x04#8 then decodeBlob .raFeed rest
    else if op = 0x05#8 then decodeBlob .parse rest
    else if op = 0x10#8 then decodeStart rest
    else if op = 0x11#8 then decodeBare .ctlCancel rest
    else if op = 0x12#8 then decodeBare .ctlStatus rest
    else .reject (.unknownCode op)

/-- A collaborator event word (R121, R122). -/
def decodeEvent : List Byte → Decoded
  | [] => .reject .emptyWord
  | op :: rest =>
    if op = 0x20#8 then decodeBare .evConnectOk rest
    else if op = 0x21#8 then decodeBare .evConnectRefused rest
    else if op = 0x22#8 then decodeBare .evConnectError rest
    else if op = 0x23#8 then decodeBare .evSendOk rest
    else if op = 0x24#8 then decodeBare .evSendError rest
    else if op = 0x25#8 then decodeBlob .evRxData rest
    else if op = 0x26#8 then decodeBare .evRxError rest
    else if op = 0x27#8 then decodeBare .evRxTimeout rest
    else if op = 0x28#8 then decodeBare .evDeadline rest
    else if op = 0x29#8 then decodeBare .evTimerDone rest
    else .reject (.unknownCode op)

/-- A request frame by its pattern (R100, R104): eight bytes, the function code at offset 1. Whether its fields hold
what R100 says is `Instr.wellFormed`'s affair. -/
def decodeRequest : List Byte → Decoded
  | [slave, fc, sHi, sLo, nHi, nLo, lo, hi] =>
    if fc = 0x03#8 then .ok (.reqReadHoldingRegisters slave (be16 sHi sLo) (be16 nHi nLo) lo hi)
    else if fc = 0x04#8 then .ok (.reqReadInputRegisters slave (be16 sHi sLo) (be16 nHi nLo) lo hi)
    else .reject (.unsupportedFunction fc)
  | _ => .reject .lengthMismatch

/-- A response frame (R102, R104, R106): `bc + 5` bytes, the function code at offset 1. -/
def decodeResponse : List Byte → Decoded
  | slave :: fc :: bc :: rest =>
    if fc = 0x03#8 ∨ fc = 0x04#8 then
      match rest.drop bc.toNat with
      | [lo, hi] =>
        if fc = 0x03#8 then .ok (.rspReadHoldingRegisters slave bc (rest.take bc.toNat) lo hi)
        else .ok (.rspReadInputRegisters slave bc (rest.take bc.toNat) lo hi)
      | _ => .reject .lengthMismatch
    else .reject (.unsupportedFunction fc)
  | _ => .reject .lengthMismatch

/-- The decoder of each port. -/
def decodeOn : Port → List Byte → Decoded
  | .host, w => decodeHost w
  | .event, w => decodeEvent w
  | .request, w => decodeRequest w
  | .response, w => decodeResponse w

/-- A word of format `HB` or `EB` (R110, R120). -/
def encodeBlob (op : Byte) (d : List Byte) : List Byte := op :: bytes16 (len16 d) ++ d

/-- The bytes of a response frame: address, function code, byte-count, register data, CRC low, CRC high (R102). -/
def responseFrame (slave fc bc : Byte) (data : List Byte) (crcLo crcHi : Byte) : List Byte :=
  [slave, fc, bc] ++ data ++ [crcLo, crcHi]

/-- The word of an instruction (R100, R102, R110, R111, R120, R121). -/
def encode : Instr → List Byte
  | .crc16 d => encodeBlob 0x01#8 d
  | .build slave fc start count => 0x02#8 :: bytes32 slave ++ bytes32 fc ++ bytes32 start ++ bytes32 count
  | .raReset => [0x03#8]
  | .raFeed d => encodeBlob 0x04#8 d
  | .parse f => encodeBlob 0x05#8 f
  | .ctlStart slave fc start count maxAttempts timeout retryDelay pollInterval endpoint =>
    0x10#8 :: bytes32 slave ++ bytes32 fc ++ bytes32 start ++ bytes32 count ++ bytes32 maxAttempts ++
      bytes32 timeout ++ bytes32 retryDelay ++ bytes32 pollInterval ++ bytes16 (len16 endpoint) ++ endpoint
  | .ctlCancel => [0x11#8]
  | .ctlStatus => [0x12#8]
  | .evConnectOk => [0x20#8]
  | .evConnectRefused => [0x21#8]
  | .evConnectError => [0x22#8]
  | .evSendOk => [0x23#8]
  | .evSendError => [0x24#8]
  | .evRxData d => encodeBlob 0x25#8 d
  | .evRxError => [0x26#8]
  | .evRxTimeout => [0x27#8]
  | .evDeadline => [0x28#8]
  | .evTimerDone => [0x29#8]
  | .reqReadHoldingRegisters slave start count lo hi => requestBody slave 0x03#8 start count ++ [lo, hi]
  | .reqReadInputRegisters slave start count lo hi => requestBody slave 0x04#8 start count ++ [lo, hi]
  | .rspReadHoldingRegisters slave bc data lo hi => responseFrame slave 0x03#8 bc data lo hi
  | .rspReadInputRegisters slave bc data lo hi => responseFrame slave 0x04#8 bc data lo hi

/-- The `k` bytes of `w` with bit 0 in the first byte (the table's numbering of interface words; log 11). -/
def tableBytes : Nat → Nat → List Byte
  | 0, _ => []
  | k + 1, w => BitVec.ofNat 8 (w % 256) :: tableBytes k (w / 256)

/-- How many bytes the interface word that begins with `b` has, by its format (R110, R120); `b` is padded with zeros. -/
def interfaceLength (b : List Byte) : Nat :=
  let op := byteAt b 0
  if op = 0x01#8 ∨ op = 0x04#8 ∨ op = 0x05#8 ∨ op = 0x25#8 then 3 + (be16 (byteAt b 1) (byteAt b 2)).toNat
  else if op = 0x02#8 then 17
  else if op = 0x10#8 then 35 + (be16 (byteAt b 33) (byteAt b 34)).toNat
  else 1

/-- The port of an interface word by its code: the two ranges are disjoint (R111, R121; D3). -/
def interfacePort (b : List Byte) : Port :=
  if 0x20 ≤ (byteAt b 0).toNat ∧ (byteAt b 0).toNat ≤ 0x29 then .event else .host

/-- The first `k` bytes of `b` followed by zeros: a table word with operand bytes of zeros. -/
def padTo (k : Nat) (b : List Byte) : List Byte := (b ++ List.replicate k 0x00#8).take k

/-- The port and the bytes of a table word (log 11). A 64-bit word is a request frame and a 16-bit word the opening
of a response frame, both numbered as the table numbers them, first byte highest; any other is an interface word, bit
0 in its first byte. Bytes the table gives no bits are 0, up to the length of the word. -/
def tableWord (nbits w : Nat) : Port × List Byte :=
  if nbits = 64 then (.request, (tableBytes 8 w).reverse)
  else if nbits = 16 then (.response, padTo 5 (tableBytes 2 w).reverse)
  else
    let b := tableBytes (nbits / 8) w
    (interfacePort b, padTo (interfaceLength b) b)

/-- The instruction the decoder reads from a word of the opcode table. -/
def decodeTableWord (nbits w : Nat) : Option Instr :=
  match decodeOn (tableWord nbits w).1 (tableWord nbits w).2 with
  | .ok i => some i
  | .reject _ => none

end Sys2Proof
end

