-- ==== Sys2Proof/Machine/State.lean ====
section
/-! DEFINITION. The state of the block as plain data (spec 10_state.md R30), the reasons a step can stop, and the
state after power-on reset (10_state.md R50, 70_reset_and_hazards.md R360). -/

namespace Sys2Proof.Machine

/-- `ctl_state`, the sequencing register: the twelve values of R31 (codes 0 to 11). -/
inductive CtlState
  | idle | connecting | sending | receiving | parsing | interpreting | success
  | retryableFailure | fatalFailure | retryWait | pollSleep | stopped
deriving DecidableEq, Repr

/-- `stop_reason` (R42). -/
inductive StopReason
  | none | cancelled | misconfigured | unexpectedEvent
deriving DecidableEq, Repr

/-- An error kind with the info it carries (60_exceptions.md R321, R323): only `CrcMismatch` carries info. -/
inductive Err
  | invalidParameter | frameTooShort
  | crcMismatch (received computed : Half)
  | unsupportedFunctionCode | emptyPayload | receiveTimeout | transportError | connectionRefused
deriving DecidableEq, Repr

/-- The class of an error kind (60_exceptions.md R322). -/
inductive ErrClass
  | constructionTime | retryable | fatal
deriving DecidableEq, Repr

/-- A Decoded Reading (R37, 43_parser.md R221). -/
structure Reading where
  /-- The slave address echoed from the response. -/
  slave : Byte
  /-- The function code echoed from the response. -/
  fc : Byte
  /-- The register values, in order. -/
  regs : List Half
deriving DecidableEq, Repr

/-- `Ok(v) | Err(kind, info)`, the outcome of a codec operation (00_scope.md R18). -/
inductive Result (α : Type)
  | ok (v : α)
  | err (e : Err)
deriving DecidableEq, Repr

/-- The configuration register block CFG0 to CFG8 (R43). -/
structure Cfg where
  slave : Byte
  func : Byte
  start : Half
  count : Half
  maxAttempts : Quad
  timeout : Quad
  retryDelay : Quad
  pollInterval : Quad
  endpoint : List Byte
deriving DecidableEq, Repr

/-- An output word (30_encoding.md R130). -/
inductive OutWord
  | connect (timeout : Quad) (endpoint : List Byte)
  | send (frame : List Byte)
  | receive (max : Half)
  | close
  | armDeadline (timeout : Quad)
  | disarmDeadline
  | timer (duration : Quad)
  | reportSuccess (reading : Reading)
  | reportFailure (error : Err) (attempts : Quad)
  | stopped (reason : StopReason) (kind : Byte)
deriving DecidableEq, Repr

/-- A host command response (30_encoding.md R113). -/
inductive HostResponse
  | ok (payload : List Byte)
  | err (e : Err)
  | illegalCommand
  | illegalState
  | capacity
deriving DecidableEq, Repr

/-- One thing the run takes next (20_memory.md R86; log 2): a word of the host port, a word of the event port, or the
controller's own internal step. The list of these is one interleaving of the two ports. -/
inductive Arrival
  | host (word : List Byte)
  | event (word : List Byte)
  | internal
deriving DecidableEq, Repr

/-- The state of the block: the record of R30, then the model's own fields. -/
structure State where
  /-- `ctl_state` (R31). -/
  ctlState : CtlState
  /-- `attempt`, attempts started in the current cycle (R33). -/
  attempt : Quad
  /-- `last_error` (R34). -/
  lastError : Option Err
  /-- `rx_buf` (R35), byte offset 0 first (20_memory.md R71). -/
  rxBuf : List Byte
  /-- `req`, the request frame of the attempt (R36). -/
  req : Option (List Byte)
  /-- `pres`, the result of the last PARSING step (R37). -/
  pres : Option (Result Reading)
  /-- `conn_open` (R38). -/
  connOpen : Bool
  /-- `deadline_expired` (R40). -/
  deadlineExpired : Bool
  /-- `cancel_pending` (R41). -/
  cancelPending : Bool
  /-- `stop_reason` (R42). -/
  stopReason : StopReason
  /-- `cfg`, unset or the configuration (R43). -/
  cfg : Option Cfg
  /-- `out`, every output word, in order (R45). -/
  out : List OutWord
  /-- The model's own: the host-command responses, in order (R45, R113; log 7). -/
  resp : List HostResponse
  /-- The model's own: what the environment has offered and the block has not yet taken (R84, R86; log 2). -/
  pending : List Arrival
  /-- The model's own home of the instantiation parameters (R12, R362; log 1). No rule writes it. -/
  par : Config.Params
deriving DecidableEq, Repr

/-- Why a step cannot go on. Each is raised only in states that no run from reset reaches (10_state.md R51): the
spec's rules read something there that is not present, and give no effect. All safe: the model stops (log 12). -/
inductive Fault
  /-- Raised by every step that reads `cfg` in a running state while `cfg` is unset (against R51 item 3). Safe. -/
  | cfgUnset
  /-- Raised by EV_CONNECT_OK when `build` refuses `cfg` (against 44_controller.md R257), and by a request frame that
  `build` does not produce (41_frame_builder.md R171). Safe. -/
  | requestNotBuilt
  /-- Raised by INTERPRETING without a parser result and by SUCCESS without an `Ok` (R37, R276, R277). Safe. -/
  | noParserResult
  /-- Raised by RETRYABLE_FAILURE when it must report and no error is recorded (R34, R278). Safe. -/
  | noLastError
deriving DecidableEq, Repr

/-- Why an input is refused. The last three are the spec's refusals of a host word (60_exceptions.md R337): no state
of R30 changes and nothing is emitted. A step passes over such a word, records its response, and goes on with the next
input, so that it is no step of its own (log 8). -/
inductive Refusal
  /-- Raised by exec's arm of an instruction without a meaning; no arm of this model raises it. Safe. -/
  | notModelled (mnemonic : String)
  /-- ILLEGAL_COMMAND: raised by the host port for a word that is no command (30_encoding.md R114). Safe. -/
  | illegalCommand
  /-- ILLEGAL_STATE: raised by RA_RESET and RA_FEED outside IDLE and STOPPED (42_reassembler.md R199), and by CTL_START
  outside IDLE (44_controller.md R256). Safe. -/
  | illegalState
  /-- CAPACITY: raised by RA_FEED for a chunk that would pass RX_BUF_CAP (42_reassembler.md R193). Safe. -/
  | capacity
deriving DecidableEq, Repr

/-- Power-on reset of a block instantiated with parameters `p` (R50, R360). -/
def State.resetWith (p : Config.Params) : State :=
  { ctlState := .idle, attempt := 0#32, lastError := none, rxBuf := [], req := none, pres := none, connOpen := false,
    deadlineExpired := false, cancelPending := false, stopReason := .none, cfg := none, out := [], resp := [],
    pending := [], par := p }

/-- The machine right after reset (R50, R360), with the parameters of 95_test_vectors.md (DESIGN CHOICE, log 1). -/
def State.reset : State := State.resetWith Config.Params.vectors

end Sys2Proof.Machine
end

