-- ==== Sys2Proof/Machine/Words.lean ====
section
/-! DEFINITION. The numeric codes of the spec's enumerations and the bytes of the words the block writes: host
responses (30_encoding.md R113), output words (30_encoding.md R130), error codes and info (60_exceptions.md R321,
R323). -/

namespace Sys2Proof.Machine

/-- The code of a controller state (10_state.md R31). -/
def ctlCode : CtlState → Byte
  | .idle => 0#8
  | .connecting => 1#8
  | .sending => 2#8
  | .receiving => 3#8
  | .parsing => 4#8
  | .interpreting => 5#8
  | .success => 6#8
  | .retryableFailure => 7#8
  | .fatalFailure => 8#8
  | .retryWait => 9#8
  | .pollSleep => 10#8
  | .stopped => 11#8

/-- The code of a stop reason (10_state.md R42). -/
def stopCode : StopReason → Byte
  | .none => 0#8
  | .cancelled => 1#8
  | .misconfigured => 2#8
  | .unexpectedEvent => 3#8

/-- The code of an error kind (R321). -/
def errCode : Err → Byte
  | .invalidParameter => 1#8
  | .frameTooShort => 2#8
  | .crcMismatch _ _ => 3#8
  | .unsupportedFunctionCode => 4#8
  | .emptyPayload => 5#8
  | .receiveTimeout => 6#8
  | .transportError => 7#8
  | .connectionRefused => 8#8

/-- The info bytes of an error (R323, R130): only `CrcMismatch` has any, received first. -/
def errInfo : Err → List Byte
  | .crcMismatch received computed => bytes16 received ++ bytes16 computed
  | _ => []

/-- The class of an error kind (R322). -/
def errClass : Err → ErrClass
  | .invalidParameter => .constructionTime
  | .frameTooShort => .retryable
  | .crcMismatch _ _ => .retryable
  | .unsupportedFunctionCode => .retryable
  | .emptyPayload => .retryable
  | .receiveTimeout => .retryable
  | .transportError => .retryable
  | .connectionRefused => .fatal

/-- `code(last_error)`, 0 if none (44_controller.md R289). -/
def lastErrorCode : Option Err → Byte
  | none => 0#8
  | some e => errCode e

/-- The kind byte of OUT_STOPPED: 1 for MISCONFIGURED, else 0 (R130, 44_controller.md R290). -/
def stopKind : StopReason → Byte
  | .misconfigured => 1#8
  | _ => 0#8

/-- `ilen` and the info of an error, as ERR and OUT_REPORT_FAILURE carry them (R113, R130). -/
def infoBytes (e : Err) : List Byte := BitVec.ofNat 8 (errInfo e).length :: errInfo e

/-- Register values as bytes, high byte first (R130, 43_parser.md R228). -/
def regBytes : List Half → List Byte
  | [] => []
  | r :: rs => bytes16 r ++ regBytes rs

/-- A reading as PARSE and OUT_REPORT_SUCCESS carry it: slave, fc, k, then the k values (R130, R228). -/
def readingBytes (r : Reading) : List Byte :=
  [r.slave, r.fc] ++ bytes16 (BitVec.ofNat 16 r.regs.length) ++ regBytes r.regs

/-- The bytes of a host response (R113). -/
def responseBytes : HostResponse → List Byte
  | .ok payload => 0x00#8 :: payload
  | .err e => [0x01#8, errCode e] ++ infoBytes e
  | .illegalCommand => [0x80#8]
  | .illegalState => [0x81#8]
  | .capacity => [0x82#8]

/-- The bytes of an output word (R130). -/
def outBytes : OutWord → List Byte
  | .connect timeout ep => 0x40#8 :: bytes32 timeout ++ bytes16 (len16 ep) ++ ep
  | .send frame => 0x41#8 :: frame
  | .receive max => 0x42#8 :: bytes16 max
  | .close => [0x43#8]
  | .armDeadline timeout => 0x44#8 :: bytes32 timeout
  | .disarmDeadline => [0x45#8]
  | .timer duration => 0x46#8 :: bytes32 duration
  | .reportSuccess r => 0x47#8 :: readingBytes r
  | .reportFailure e attempts => 0x48#8 :: errCode e :: bytes32 attempts ++ infoBytes e
  | .stopped reason kind => [0x49#8, stopCode reason, kind]

end Sys2Proof.Machine
end

