-- ==== Sys2Proof/Machine/Flags.lean ====
section
/-! DEFINITION. The conditions the block computes from its state on demand (spec 10_state.md R46): completion of the
receive buffer, attempts remaining, resting and transient states, which inputs a state accepts, which collaborator
operations are outstanding, and the flag byte of CTL_STATUS. -/

namespace Sys2Proof.Machine

/-- `ra_complete(b)` (42_reassembler.md R192): no byte but `b[2]` is looked at, and no check is made on it (R197). -/
def raComplete (b : List Byte) : Bool :=
  decide (Config.raMin ≤ b.length) && decide (3 + (byteAt b 2).toNat + 2 ≤ b.length)

/-- `attempts_remain` (44_controller.md R262): MAX_ATTEMPTS counts the first attempt too. -/
def attemptsRemain (c : Cfg) (s : State) : Bool := decide (s.attempt.toNat < c.maxAttempts.toNat)

/-- The transient states: left by one internal step, taking no event (44_controller.md R250). -/
def transient : CtlState → Bool
  | .parsing => true
  | .interpreting => true
  | .success => true
  | .retryableFailure => true
  | .fatalFailure => true
  | .idle => false
  | .connecting => false
  | .sending => false
  | .receiving => false
  | .retryWait => false
  | .pollSleep => false
  | .stopped => false

/-- The states in which the host owns `rx_buf` (42_reassembler.md R199). -/
def hostOwnsBuffer : CtlState → Bool
  | .idle => true
  | .stopped => true
  | _ => false

/-- The states in which CTL_CANCEL is acted on at once (44_controller.md R285, R286 item 1). -/
def cancelCheckpoint : CtlState → Bool
  | .idle => true
  | .retryWait => true
  | .pollSleep => true
  | _ => false

/-- The event acceptance table (44_controller.md R291), for the resting states other than STOPPED. -/
def accepts (s : State) : Instr → Bool
  | .evConnectOk => decide (s.ctlState = .connecting)
  | .evConnectRefused => decide (s.ctlState = .connecting)
  | .evConnectError => decide (s.ctlState = .connecting)
  | .evSendOk => decide (s.ctlState = .sending)
  | .evSendError => decide (s.ctlState = .sending)
  | .evRxData d => decide (s.ctlState = .receiving) && decide (d.length ≤ s.par.rxMax)
  | .evRxError => decide (s.ctlState = .receiving)
  | .evRxTimeout => decide (s.ctlState = .receiving)
  | .evDeadline => (decide (s.ctlState = .sending) || decide (s.ctlState = .receiving)) && !s.deadlineExpired
  | .evTimerDone => decide (s.ctlState = .retryWait) || decide (s.ctlState = .pollSleep)
  | _ => false

/-- A collaborator operation (10_state.md R49): `connect`, `send`, `receive(RX_MAX)`, the receive budget, the timer of
`RETRY_DELAY`, the timer of `POLL_INTERVAL`. -/
inductive Operation
  | connect | send | receive | receiveBudget | retryTimer | pollTimer
deriving DecidableEq, Repr

/-- The outstanding collaborator operations, row by row (10_state.md R49): not stored, but decided by `ctl_state`, and in
SENDING by `conn_open` for the receive budget. -/
def outstanding (s : State) : List Operation :=
  match s.ctlState with
  | .connecting => [.connect]
  | .sending => if s.connOpen then [.send, .receiveBudget] else [.send]
  | .receiving => [.receive, .receiveBudget]
  | .retryWait => [.retryTimer]
  | .pollSleep => [.pollTimer]
  | .idle => []
  | .parsing => []
  | .interpreting => []
  | .success => []
  | .retryableFailure => []
  | .fatalFailure => []
  | .stopped => []

/-- The events that answer an operation (10_state.md R49 with 30_encoding.md R121). -/
def answers : Operation → Instr → Bool
  | .connect, .evConnectOk => true
  | .connect, .evConnectRefused => true
  | .connect, .evConnectError => true
  | .send, .evSendOk => true
  | .send, .evSendError => true
  | .receive, .evRxData _ => true
  | .receive, .evRxError => true
  | .receive, .evRxTimeout => true
  | .receiveBudget, .evDeadline => true
  | .retryTimer, .evTimerDone => true
  | .pollTimer, .evTimerDone => true
  | _, _ => false

/-- The flag byte of CTL_STATUS (44_controller.md R289): bit 0 `conn_open`, bit 1 `deadline_expired`, bit 2
`cancel_pending`, bit 3 `cfg` is set. -/
def statusFlags (s : State) : Byte :=
  (BitVec.ofBool s.connOpen).zeroExtend 8 ||| ((BitVec.ofBool s.deadlineExpired).zeroExtend 8 <<< 1) |||
    ((BitVec.ofBool s.cancelPending).zeroExtend 8 <<< 2) ||| ((BitVec.ofBool s.cfg.isSome).zeroExtend 8 <<< 3)

end Sys2Proof.Machine
end

