-- ==== Sys2Proof/Machine/Ops.lean ====
section
/-! DEFINITION. The operations that several rules share: writing the two observation streams, the controller's
procedures (44_controller.md §2), taking a failure and resuming from one (60_exceptions.md R327, R328), and how an
event is taken (44_controller.md R250, R290, R291). -/

namespace Sys2Proof.Machine

/-- What a meaning answers. -/
abbrev Answer := Host.Outcome State Fault Refusal

/-- `emit W` (00_scope.md R16): append to `out`. -/
def emit (w : OutWord) (s : State) : State := { s with out := s.out ++ [w] }

/-- The one response of a host command (30_encoding.md R113). -/
def respond (r : HostResponse) (s : State) : State := { s with resp := s.resp ++ [r] }

/-- `state <- S` (00_scope.md R16). -/
def goto (c : CtlState) (s : State) : State := { s with ctlState := c }

/-- The byte at an offset of the receive buffer, none at or past its length (20_memory.md R71). -/
def readRx (s : State) (i : Nat) : Option Byte := s.rxBuf[i]?

/-- Append a chunk to the receive buffer (20_memory.md R71; 42_reassembler.md R193). -/
def appendRx (d : List Byte) (s : State) : State := { s with rxBuf := s.rxBuf ++ d }

/-- Empty the receive buffer (42_reassembler.md R191). -/
def clearRx (s : State) : State := { s with rxBuf := [] }

/-- If a connection is open: disarm the budget, close, and clear `conn_open` (R261, R290). -/
def closeConnection (s : State) : State :=
  if s.connOpen then { s with out := s.out ++ [.disarmDeadline, .close], connOpen := false } else s

/-- The attempt's state "destroyed" (R261, R290). -/
def clearAttempt (s : State) : State :=
  { s with rxBuf := [], req := none, pres := none, deadlineExpired := false }

/-- `EndAttempt` (44_controller.md R261). -/
def endAttempt (s : State) : State := clearAttempt (closeConnection s)

/-- `Stop(reason)` (44_controller.md R290). -/
def stop (reason : StopReason) (s : State) : State :=
  goto .stopped (emit (.stopped reason (stopKind reason)) { endAttempt s with stopReason := reason })

/-- `BeginAttempt` (44_controller.md R260), under configuration `c`. -/
def beginAttempt (c : Cfg) (s : State) : State :=
  goto .connecting (emit (.connect c.timeout c.endpoint) (clearAttempt { s with attempt := s.attempt + 1#32 }))

/-- `BeginCycle` (44_controller.md R259). -/
def beginCycle (c : Cfg) (s : State) : State := beginAttempt c { s with attempt := 0#32, lastError := none }

/-- `EnterRetryWait` (44_controller.md R282), a cancellation checkpoint (R286 item 2). -/
def enterRetryWait (c : Cfg) (s : State) : State :=
  if s.cancelPending then stop .cancelled s else goto .retryWait (emit (.timer c.retryDelay) s)

/-- `EnterPollSleep` (44_controller.md R283), a cancellation checkpoint (R286 item 3). -/
def enterPollSleep (c : Cfg) (s : State) : State :=
  if s.cancelPending then stop .cancelled s else goto .pollSleep (emit (.timer c.pollInterval) s)

/-- TAKING A FAILURE (60_exceptions.md R320, R322, R327): the kind and info are saved in `last_error`, `attempt` is
kept, and the controller moves to the failure state of the kind's class; nothing else changes. A construction-time
kind is never retried and is the MISCONFIGURED stop of CTL_START (R322; log 13). -/
def raiseError (e : Err) (s : State) : State :=
  match errClass e with
  | .retryable => goto .retryableFailure { s with lastError := some e }
  | .fatal => goto .fatalFailure { s with lastError := some e }
  | .constructionTime => stop .misconfigured s

/-- RETURN FROM A FAILURE (60_exceptions.md R328): a fresh attempt; `last_error` keeps the last attempt's kind. -/
def resumeAttempt (c : Cfg) (s : State) : State := beginAttempt c s

/-- A rule that reads `cfg`; while it is unset (no run reaches that) the model stops (log 12). -/
def withCfg (s : State) (k : Cfg → Answer) : Answer :=
  match s.cfg with
  | none => .fault .cfgUnset
  | some c => k c

/-- An event that is not enabled waits: its word goes back to the head of what is pending (R250; log 6). -/
def wait (i : Instr) (s : State) : State := { s with pending := .event (encode i) :: s.pending }

/-- An event the current state does not accept, or a malformed event word (R290, R291, 30_encoding.md R122): ignored
in STOPPED, and in every other resting state the block stops. -/
def unexpected (s : State) : State :=
  if s.ctlState = .stopped then s else stop .unexpectedEvent s

/-- How every event is taken (R250, R290, R291): it waits in a transient state, has its effect where the table
accepts it, and is unexpected elsewhere. -/
def takeEvent (i : Instr) (s : State) (effect : Answer) : Answer :=
  if transient s.ctlState then .next (wait i s)
  else if accepts s i then effect
  else .next (unexpected s)

/-- The connection of the attempt is open and its request goes out (44_controller.md R265, the lines after `build`). -/
def openAndSend (c : Cfg) (frame : List Byte) (s : State) : State :=
  goto .sending (emit (.send frame) { emit (.armDeadline c.timeout) { s with connOpen := true } with req := some frame })

end Sys2Proof.Machine
end

