-- ==== Sys2Proof/Machine/FrameBuilder.lean ====
section
/-! DEFINITION. The Frame Builder (spec 41_frame_builder.md): validation, construction, the BUILD command, and the two
request frames of the opcode table. -/

namespace Sys2Proof.Machine

/-- `valid_req` (R170), on exact integers: nothing is truncated before the check. -/
def validReq (slave fc start count : Int) : Bool :=
  decide (0 ≤ slave) && decide (slave ≤ Config.addrMax) &&
    (decide (fc = 3) || decide (fc = 4)) &&
    decide (0 ≤ start) && decide (start ≤ 0xFFFF) &&
    decide (1 ≤ count) && decide (count ≤ 0xFFFF)

/-- `build` (R171): the six field bytes, then their CRC, low byte first. -/
def build (slave fc start count : Int) : Result (List Byte) :=
  if validReq slave fc start count then
    let body := requestBody (BitVec.ofInt 8 slave) (BitVec.ofInt 8 fc) (BitVec.ofInt 16 start) (BitVec.ofInt 16 count)
    .ok (body ++ crcBytes body)
  else .err .invalidParameter

/-- `BUILD` (R172): the frame, or ERR InvalidParameter. Allowed in every state; writes no state. -/
def execBuild (slave fc start count : Quad) (s : State) : Answer :=
  match build (i32 slave) (i32 fc) (i32 start) (i32 count) with
  | .ok f => .next (respond (.ok f) s)
  | .err e => .next (respond (.err e) s)

/-- `build` of a stored configuration (44_controller.md R265). -/
def buildCfg (c : Cfg) : Result (List Byte) :=
  build (Int.ofNat c.slave.toNat) (Int.ofNat c.func.toNat) (Int.ofNat c.start.toNat) (Int.ofNat c.count.toNat)

/-- A request frame of the table, as the controller sends it (R171; 44_controller.md R265; log 9). A request exists
only as the frame `build` makes of its fields, and goes out only from CONNECTING, once the connection is open; in any
other state no request is on the wire and nothing changes. -/
def sendRequest (slave fc : Byte) (start count : Half) (frame : List Byte) (s : State) : Answer :=
  if s.ctlState = .connecting then
    withCfg s fun c =>
      if build (Int.ofNat slave.toNat) (Int.ofNat fc.toNat) (Int.ofNat start.toNat) (Int.ofNat count.toNat) = .ok frame
      then .next (openAndSend c frame s)
      else .fault .requestNotBuilt
  else .next s

/-- `REQ_ReadHoldingRegisters` (R100, R171): a request of function code 0x03. -/
def execReqReadHoldingRegisters (slave : Byte) (start count : Half) (crcLo crcHi : Byte) (s : State) : Answer :=
  sendRequest slave 0x03#8 start count (encode (.reqReadHoldingRegisters slave start count crcLo crcHi)) s

/-- `REQ_ReadInputRegisters` (R100, R171): a request of function code 0x04. -/
def execReqReadInputRegisters (slave : Byte) (start count : Half) (crcLo crcHi : Byte) (s : State) : Answer :=
  sendRequest slave 0x04#8 start count (encode (.reqReadInputRegisters slave start count crcLo crcHi)) s

end Sys2Proof.Machine
end

