-- ==== Sys2Proof/Machine/Controller.lean ====
section
/-! DEFINITION. The controller's host commands (spec 44_controller.md §3). -/

namespace Sys2Proof.Machine

/-- `valid_cfg` (R257): the Frame Builder's own check and at least one attempt. -/
def validCfg (slave fc start count maxAttempts : Int) : Bool :=
  validReq slave fc start count && decide (1 ≤ maxAttempts)

/-- `CTL_START` (R256): refused outside IDLE (60_exceptions.md R337); a bad configuration is the MISCONFIGURED stop, a good one is stored whole and
the first cycle starts at once. -/
def execCtlStart (slave fc start count maxAttempts timeout retryDelay pollInterval : Quad) (endpoint : List Byte)
    (s : State) : Answer :=
  if s.ctlState ≠ .idle then .refused .illegalState
  else if validCfg (i32 slave) (i32 fc) (i32 start) (i32 count) (i32 maxAttempts) then
    let c : Cfg :=
      { slave := BitVec.ofInt 8 (i32 slave), func := BitVec.ofInt 8 (i32 fc), start := BitVec.ofInt 16 (i32 start),
        count := BitVec.ofInt 16 (i32 count), maxAttempts := maxAttempts, timeout := timeout,
        retryDelay := retryDelay, pollInterval := pollInterval, endpoint := endpoint }
    .next (beginCycle c (respond (.ok []) { s with cfg := some c }))
  else .next (raiseError .invalidParameter (respond (.err .invalidParameter) s))

/-- `CTL_CANCEL` (R285): latch the request, and stop at once at a checkpoint (R286 item 1). -/
def execCtlCancel (s : State) : Answer :=
  let t := respond (.ok []) { s with cancelPending := true }
  if cancelCheckpoint s.ctlState then .next (stop .cancelled t) else .next t

/-- `CTL_STATUS` (R289): the status registers. Writes no state. -/
def execCtlStatus (s : State) : Answer :=
  .next (respond (.ok ([ctlCode s.ctlState] ++ bytes32 s.attempt ++
    [lastErrorCode s.lastError, statusFlags s, stopCode s.stopReason])) s)

end Sys2Proof.Machine
end

