-- ==== Sys2Proof/Machine/CrcEngine.lean ====
section
/-! DEFINITION. The CRC Engine's command (spec 40_crc.md R153). -/

namespace Sys2Proof.Machine

/-- `CRC16` (R153): respond OK with the checksum, low byte first. Allowed in every state; writes no state. -/
def execCrc16 (d : List Byte) (s : State) : Answer := .next (respond (.ok (crcBytes d)) s)

end Sys2Proof.Machine
end

