-- ==== Sys2Proof/Machine/Reassembler.lean ====
section
/-! DEFINITION. The Frame Reassembler (spec 42_reassembler.md): extraction and the two host commands. The predicate
`ra_complete` is in Machine/Flags.lean. -/

namespace Sys2Proof.Machine

/-- `ra_extract` (R195): the bytes of a complete buffer that go to the parser. -/
def raExtract : Config.ExtractMode → List Byte → List Byte
  | .wholeBuffer, b => b
  | .truncate, b => b.take ((byteAt b 2).toNat + 5)

/-- The status byte of RA_FEED for a buffer: 1 COMPLETE, 0 NEED_MORE (R193). -/
def feedStatus (b : List Byte) : Byte := if raComplete b then 1#8 else 0#8

/-- `RA_RESET` (R191): empty the buffer, while the host owns it (R199); otherwise the word is refused (60_exceptions.md
R337). -/
def execRaReset (s : State) : Answer :=
  if hostOwnsBuffer s.ctlState then .next (respond (.ok []) (clearRx s))
  else .refused .illegalState

/-- `RA_FEED` (R193): the checks in the rule's order, then append and report the status. A word outside the
states that own the buffer, or past the capacity, is refused (60_exceptions.md R337). -/
def execRaFeed (d : List Byte) (s : State) : Answer :=
  if hostOwnsBuffer s.ctlState then
    if d.length = 0 then .next (respond (.ok [2#8]) s)
    else if s.par.rxBufCap < s.rxBuf.length + d.length then .refused .capacity
    else .next (respond (.ok [feedStatus (s.rxBuf ++ d)]) (appendRx d s))
  else .refused .illegalState

end Sys2Proof.Machine
end

