-- ==== Sys2Proof/Machine/Events.lean ====
section
/-! DEFINITION. The collaborator events (spec 44_controller.md §4 to §6 and §8). `takeEvent` holds what they share:
the acceptance table R291. -/

namespace Sys2Proof.Machine

/-- The next read of the receive loop, `emit OUT_RECEIVE(RX_MAX)` (R267, R269). -/
def askReceive (s : State) : State := emit (.receive (BitVec.ofNat 16 s.par.rxMax)) s

/-- `EV_CONNECT_OK` (R265): the budget is armed, the request is built afresh and sent. -/
def execEvConnectOk (s : State) : Answer :=
  takeEvent .evConnectOk s (withCfg s fun c =>
    match buildCfg c with
    | .ok f => .next (openAndSend c f s)
    | .err _ => .fault .requestNotBuilt)

/-- `EV_CONNECT_REFUSED` (R264): fatal for the cycle. -/
def execEvConnectRefused (s : State) : Answer :=
  takeEvent .evConnectRefused s (.next (raiseError .connectionRefused s))

/-- `EV_CONNECT_ERROR` (R266). -/
def execEvConnectError (s : State) : Answer :=
  takeEvent .evConnectError s (.next (raiseError .transportError s))

/-- `EV_SEND_OK` (R267): the first read, unless the budget has already run out. -/
def execEvSendOk (s : State) : Answer :=
  takeEvent .evSendOk s
    (if s.deadlineExpired then .next (raiseError .receiveTimeout s) else .next (goto .receiving (askReceive s)))

/-- `EV_SEND_ERROR` (R271). -/
def execEvSendError (s : State) : Answer :=
  takeEvent .evSendError s (.next (raiseError .transportError s))

/-- `EV_RX_DATA` (R269): a chunk of more than RX_MAX bytes is unexpected (R291), an empty one is a close; completion
is tested before the budget (R326). -/
def execEvRxData (d : List Byte) (s : State) : Answer :=
  takeEvent (.evRxData d) s
    (if d.length = 0 then .next (raiseError .transportError s)
    else
      let t := appendRx d s
      if raComplete t.rxBuf then .next (goto .parsing t)
      else if t.deadlineExpired then .next (raiseError .receiveTimeout t)
      else .next (askReceive t))

/-- `EV_RX_ERROR` (R270). -/
def execEvRxError (s : State) : Answer :=
  takeEvent .evRxError s (.next (raiseError .transportError s))

/-- `EV_RX_TIMEOUT` (R273). -/
def execEvRxTimeout (s : State) : Answer :=
  takeEvent .evRxTimeout s (.next (raiseError .receiveTimeout s))

/-- `EV_DEADLINE` (R272): only latched; an outstanding read stays outstanding. -/
def execEvDeadline (s : State) : Answer :=
  takeEvent .evDeadline s (.next { s with deadlineExpired := true })

/-- `EV_TIMER_DONE` (R284): the next attempt, or the next cycle. -/
def execEvTimerDone (s : State) : Answer :=
  takeEvent .evTimerDone s (withCfg s fun c =>
    if s.ctlState = .retryWait then .next (resumeAttempt c s) else .next (beginCycle c s))

end Sys2Proof.Machine
end

