-- ==== Sys2Proof/Machine/FrameParser.lean ====
section
/-! DEFINITION. The Frame Parser (spec 43_parser.md): the five steps, the PARSE command, the PARSING step of the
controller, and the two response frames of the opcode table. -/

namespace Sys2Proof.Machine

/-- The bytes a frame's CRC covers, all but the last two (30_encoding.md R103). -/
def covered (f : List Byte) : List Byte := f.take (f.length - 2)

/-- The CRC a frame carries, low byte first (R223). -/
def receivedCrc (f : List Byte) : Half := le16 (byteAt f (f.length - 2)) (byteAt f (f.length - 1))

/-- The register data of a frame, `f[3 .. n-3]` (R227). -/
def registerData (f : List Byte) : List Byte := (covered f).drop 3

/-- `parse` (R220 to R227): the five steps in order, first failure wins. The byte-count `f[2]` is not checked, nor is
anything against the request (R229). -/
def parse (f : List Byte) : Result Reading :=
  if f.length < 4 then .err .frameTooShort
  else if receivedCrc f ≠ crc16 (covered f) then .err (.crcMismatch (receivedCrc f) (crc16 (covered f)))
  else if byteAt f 1 ≠ 0x03#8 ∧ byteAt f 1 ≠ 0x04#8 then .err .unsupportedFunctionCode
  else if f.length - 4 = 0 then .err .emptyPayload
  else .ok { slave := byteAt f 0, fc := byteAt f 1, regs := halves (registerData f) }

/-- `PARSE` (R228): the reading, or ERR with the kind and its info. Allowed in every state; writes no state. -/
def execParse (f : List Byte) (s : State) : Answer :=
  match parse f with
  | .ok r => .next (respond (.ok (readingBytes r)) s)
  | .err e => .next (respond (.err e) s)

/-- The PARSING step on the frame `f` (44_controller.md R274): keep the result, destroy the buffer, interpret next. -/
def parseFrame (f : List Byte) (s : State) : State :=
  goto .interpreting { clearRx s with pres := some (parse f) }

/-- A response frame of the table, as the controller takes it (R220; 44_controller.md R274; log 10): in PARSING it is
the frame in the buffer. In any other state a frame reaches the block only inside a word (EV_RX_DATA, RA_FEED, PARSE),
so the bare frame changes nothing. -/
def takeResponse (frame : List Byte) (s : State) : Answer :=
  if s.ctlState = .parsing then .next (parseFrame frame s) else .next s

/-- `RSP_ReadHoldingRegisters` (R102, R220): a response of function code 0x03. -/
def execRspReadHoldingRegisters (slave bc : Byte) (data : List Byte) (crcLo crcHi : Byte) (s : State) : Answer :=
  takeResponse (encode (.rspReadHoldingRegisters slave bc data crcLo crcHi)) s

/-- `RSP_ReadInputRegisters` (R102, R220): a response of function code 0x04. -/
def execRspReadInputRegisters (slave bc : Byte) (data : List Byte) (crcLo crcHi : Byte) (s : State) : Answer :=
  takeResponse (encode (.rspReadInputRegisters slave bc data crcLo crcHi)) s

end Sys2Proof.Machine
end

