-- ==== Sys2Proof/Machine/Dispatch.lean ====
section
/-! DEFINITION. The meaning of every instruction of spec/opcode_table.json, one arm each. -/

namespace Sys2Proof.Machine

def exec (i : Instr) (s : State) : Host.Outcome State Fault Refusal :=
  match i with
  | .crc16 d => Sys2Proof.Machine.execCrc16 d s
  | .build slave fc start count => Sys2Proof.Machine.execBuild slave fc start count s
  | .raReset => Sys2Proof.Machine.execRaReset s
  | .raFeed d => Sys2Proof.Machine.execRaFeed d s
  | .parse f => Sys2Proof.Machine.execParse f s
  | .ctlStart slave fc start count maxAttempts timeout retryDelay pollInterval endpoint => Sys2Proof.Machine.execCtlStart slave fc start count maxAttempts timeout retryDelay pollInterval endpoint s
  | .ctlCancel => Sys2Proof.Machine.execCtlCancel s
  | .ctlStatus => Sys2Proof.Machine.execCtlStatus s
  | .evConnectOk => Sys2Proof.Machine.execEvConnectOk s
  | .evConnectRefused => Sys2Proof.Machine.execEvConnectRefused s
  | .evConnectError => Sys2Proof.Machine.execEvConnectError s
  | .evSendOk => Sys2Proof.Machine.execEvSendOk s
  | .evSendError => Sys2Proof.Machine.execEvSendError s
  | .evRxData d => Sys2Proof.Machine.execEvRxData d s
  | .evRxError => Sys2Proof.Machine.execEvRxError s
  | .evRxTimeout => Sys2Proof.Machine.execEvRxTimeout s
  | .evDeadline => Sys2Proof.Machine.execEvDeadline s
  | .evTimerDone => Sys2Proof.Machine.execEvTimerDone s
  | .reqReadHoldingRegisters slave start count crcLo crcHi => Sys2Proof.Machine.execReqReadHoldingRegisters slave start count crcLo crcHi s
  | .reqReadInputRegisters slave start count crcLo crcHi => Sys2Proof.Machine.execReqReadInputRegisters slave start count crcLo crcHi s
  | .rspReadHoldingRegisters slave bc data crcLo crcHi => Sys2Proof.Machine.execRspReadHoldingRegisters slave bc data crcLo crcHi s
  | .rspReadInputRegisters slave bc data crcLo crcHi => Sys2Proof.Machine.execRspReadInputRegisters slave bc data crcLo crcHi s

end Sys2Proof.Machine
end

