-- ==== Sys2Proof/Machine/Internal.lean ====
section
/-! DEFINITION. The controller's internal steps other than PARSING (spec 44_controller.md §7). -/

namespace Sys2Proof.Machine

/-- `INTERPRETING` (R276). The reading is not compared with the request (R293). -/
def interpretStep (s : State) : Answer :=
  match s.pres with
  | some (.ok _) => .next (goto .success s)
  | some (.err e) => .next (raiseError e s)
  | none => .fault .noParserResult

/-- `SUCCESS` (R277): tear down, report, then the poll sleep. -/
def successStep (s : State) : Answer :=
  match s.pres with
  | some (.ok r) => withCfg s fun c => .next (enterPollSleep c (emit (.reportSuccess r) (endAttempt s)))
  | _ => .fault .noParserResult

/-- `RETRYABLE_FAILURE` (R278): tear down; retry while attempts remain, otherwise report and sleep. -/
def retryableStep (s : State) : Answer :=
  withCfg s fun c =>
    if attemptsRemain c s then .next (enterRetryWait c (endAttempt s))
    else
      match s.lastError with
      | some e => .next (enterPollSleep c (emit (.reportFailure e s.attempt) (endAttempt s)))
      | none => .fault .noLastError

/-- `FATAL_FAILURE` (R279): tear down, report ConnectionRefused, then the poll sleep. -/
def fatalStep (s : State) : Answer :=
  withCfg s fun c => .next (enterPollSleep c (emit (.reportFailure .connectionRefused s.attempt) (endAttempt s)))

end Sys2Proof.Machine
end

