-- ==== Sys2Proof/Machine/Fetch.lean ====
section
/-! DEFINITION. Where the block takes its next word from and what it does with a word that is no instruction
(spec 20_memory.md R84, R86; 30_encoding.md R114, R122; 44_controller.md R250, R251, R274). -/

namespace Sys2Proof.Machine

/-- A word of the host port (R114): the command it decodes to, or the refusal ILLEGAL_COMMAND (60_exceptions.md R337). -/
def hostStep (w : List Byte) (s : State) : Answer :=
  match decodeHost w with
  | .ok i => exec i s
  | .reject _ => .refused .illegalCommand

/-- The response a refused host word is given (30_encoding.md R113; 60_exceptions.md R337). -/
def refusalResponse : Refusal → Option HostResponse
  | .illegalCommand => some .illegalCommand
  | .illegalState => some .illegalState
  | .capacity => some .capacity
  | _ => none

/-- A word of the event port, in a resting state (R122): the event it decodes to, or an unexpected event. -/
def eventStep (w : List Byte) (s : State) : Answer :=
  match decodeEvent w with
  | .ok i => exec i s
  | .reject _ => .next (unexpected s)

/-- The frame that PARSING reads, `ra_extract(rx_buf)` (R274). -/
def frameToParse (s : State) : List Byte := raExtract s.par.extractMode s.rxBuf

/-- `PARSING` (R274): the response frame in the buffer, or bytes that are no response frame of the table, which the
parser judges all the same (R226). -/
def parsingStep (s : State) : Answer :=
  match decodeResponse (frameToParse s) with
  | .ok i => exec i s
  | .reject _ => .next (parseFrame (frameToParse s) s)

/-- `TAU`, the internal step (R251): exactly one in a transient state, none in a resting one. -/
def internalStep (s : State) : Answer :=
  match s.ctlState with
  | .parsing => parsingStep s
  | .interpreting => interpretStep s
  | .success => successStep s
  | .retryableFailure => retryableStep s
  | .fatalFailure => fatalStep s
  | .idle => .next s
  | .connecting => .next s
  | .sending => .next s
  | .receiving => .next s
  | .retryWait => .next s
  | .pollSleep => .next s
  | .stopped => .next s

/-- The step from `s` with `arrivals` offered (00_scope.md R11): the host word, the event word or the internal step that
comes next. An event waits while the state is transient (R250), and with nothing to take a resting block waits (log 4).
A refused host word is no step (60_exceptions.md R337): its response is recorded and the step is what comes after it
(log 8). -/
def takeFrom : List Arrival → State → Answer
  | [], s => internalStep { s with pending := [] }
  | .host w :: rest, s =>
    match hostStep w { s with pending := rest } with
    | .next t => .next t
    | .fault r => .fault r
    | .refused r =>
      match refusalResponse r with
      | some a => takeFrom rest (respond a { s with pending := rest })
      | none => .refused r
  | .event w :: rest, s =>
    if transient s.ctlState then internalStep { s with pending := .event w :: rest }
    else eventStep w { s with pending := rest }
  | .internal :: rest, s => internalStep { s with pending := rest }

/-- One step of the block, taking from what is pending (00_scope.md R11, 20_memory.md R86). -/
def takeNext (s : State) : Answer := takeFrom s.pending s

/-- A configuration that makes `build` produce the request frame `f` (log 9): its four fields, other fields as given. -/
def cfgOfRequest (f : List Byte) (c : Cfg) : Cfg :=
  { c with slave := byteAt f 0, func := byteAt f 1, start := be16 (byteAt f 2) (byteAt f 3),
           count := be16 (byteAt f 4) (byteAt f 5) }

/-- One attempt, no durations, no endpoint: what withFetchWord configures beside the request's fields (log 9). -/
def plainCfg : Cfg :=
  { slave := 0#8, func := 3#8, start := 0#16, count := 1#16, maxAttempts := 1#32, timeout := 0#32,
    retryDelay := 0#32, pollInterval := 0#32, endpoint := [] }

/-- `s` with a word placed so that the next step takes it (log 3, 9, 10): a host or event word at the head of what is
pending; a response frame in `rx_buf` with the controller in PARSING; a request frame as the configuration it is built
from, with the connection about to succeed. -/
def placeWord (s : State) : Port → List Byte → State
  | .host, w => { s with pending := .host w :: s.pending }
  | .event, w => { s with pending := .event w :: s.pending }
  | .request, f =>
    { s with ctlState := .connecting, cfg := some (cfgOfRequest f (s.cfg.getD plainCfg)),
             pending := .event (encode .evConnectOk) :: s.pending }
  | .response, f => { s with ctlState := .parsing, rxBuf := f, pending := .internal :: s.pending }

end Sys2Proof.Machine
end

