-- ==== Sys2Proof/Machine/Step.lean ====
section
/-! DEFINITION. One step of the block, and where a word stands so that the next step runs it. -/

namespace Sys2Proof.Machine

/-- One step (spec 00_scope.md R11). -/
def step (s : State) : Host.Outcome State Fault Refusal := takeNext s

/-- `s` with the table word `w` of `nbits` bits placed where the next step takes its instruction (log 3, 9, 10, 11). -/
def State.withFetchWord (s : State) (nbits w : Nat) : State :=
  placeWord s (tableWord nbits w).1 (tableWord nbits w).2

end Sys2Proof.Machine
end

