-- ==== Sys2Proof/Machine/Pseudo.lean ====
section
/-! DEFINITION. The pseudo-instructions of spec 30_encoding.md R141, as the words or steps they expand to. -/

namespace Sys2Proof.Machine

/-- Successive pieces of `k` bytes, the last one shorter if need be; `fuel` bounds the number of pieces. The empty
sequence has no piece (DESIGN CHOICE, log 22: R141 does not say whether it has none or one empty piece). -/
def pieces (k : Nat) : Nat → List Byte → List (List Byte)
  | 0, _ => []
  | _ + 1, [] => []
  | fuel + 1, b :: bs => (b :: bs).take k :: pieces k fuel ((b :: bs).drop k)

/-- `RA_FEED_SPLIT [bytes], k` (R141; k is at least 1). Of no bytes it is no word (DESIGN CHOICE, log 22). -/
def raFeedSplit (bytes : List Byte) (k : Nat) : List Instr := (pieces k bytes.length bytes).map .raFeed

/-- `EV_RX_SPLIT [bytes], k` (R141; k is at least 1). Of no bytes it is no word (DESIGN CHOICE, log 22). -/
def evRxSplit (bytes : List Byte) (k : Nat) : List Instr := (pieces k bytes.length bytes).map .evRxData

/-- `CRC16 "text"` (R141): the ASCII codes of the characters. -/
def crc16Text (text : List Char) : Instr := .crc16 (text.map fun ch => BitVec.ofNat 8 ch.toNat)

/-- `SETTLE` (R141): TAU until the state is resting; `k` bounds the internal steps, and three are enough (R251). -/
def settle : Nat → State → Answer
  | 0, s => .next s
  | k + 1, s =>
    if transient s.ctlState then
      match internalStep s with
      | .next t => settle k t
      | .fault r => .fault r
      | .refused r => .refused r
    else .next s

end Sys2Proof.Machine
end

