-- ==== Sys2Proof/Safety.lean ====
section
/-! DEFINITION. What a good state and a finished run are, in the terms the statements use: the invariants of spec
10_state.md R51 with what the other rules add to make them inductive, and the ends of a run (44_controller.md R297). -/

namespace Sys2Proof.Safety

open Sys2Proof.Machine

/-- An attempt or a wait of a cycle is under way: every state but IDLE and STOPPED (R51). -/
def running (c : CtlState) : Bool := !decide (c = .idle) && !decide (c = .stopped)

/-- An output word is OUT_CONNECT. -/
def isConnect : OutWord → Bool
  | .connect _ _ => true
  | _ => false

/-- An output word is one of the two cycle reports (44_controller.md R294). -/
def isReport : OutWord → Bool
  | .reportSuccess _ => true
  | .reportFailure _ _ => true
  | _ => false

/-- The legal values of a configuration record (10_state.md R43; 44_controller.md R257). -/
def cfgLegal (c : Cfg) : Bool :=
  decide (c.slave.toNat ≤ 247) && (decide (c.func = 0x03#8) || decide (c.func = 0x04#8)) && decide (1 ≤ c.count.toNat) &&
    decide (1 ≤ c.maxAttempts.toNat) && decide (c.maxAttempts.toNat ≤ 2147483647) && decide (c.endpoint.length ≤ 65535)

/-- The invariant of the block (R51 and the rules named in each field). -/
structure Inv (s : State) : Prop where
  /-- The parameters are in their ranges (00_scope.md R12). -/
  par_legal : s.par.legal = true
  /-- R51 item 1. -/
  open_states : s.connOpen = true →
    s.ctlState ∈ [.sending, .receiving, .parsing, .interpreting, .success, .retryableFailure]
  /-- R38: open from EV_CONNECT_OK until the teardown. -/
  open_until_teardown : s.ctlState ∈ [.sending, .receiving, .parsing, .interpreting, .success] → s.connOpen = true
  /-- R51 item 2, the two waits. -/
  waits_clean : s.ctlState ∈ [.retryWait, .pollSleep] → s.connOpen = false ∧ s.rxBuf = []
  /-- R51 item 2, IDLE and STOPPED. -/
  rests_closed : s.ctlState ∈ [.idle, .stopped] → s.connOpen = false
  /-- R260, R265: the buffer is empty until the first chunk. -/
  fresh_buffer : s.ctlState ∈ [.connecting, .sending] → s.rxBuf = []
  /-- R51 item 3: `cfg` is unset only in IDLE and in STOPPED. -/
  unset_rests : s.cfg = none → s.ctlState ∈ [.idle, .stopped]
  /-- R51 item 3: `cfg` is unset in IDLE. -/
  idle_unset : s.ctlState = .idle → s.cfg = none
  /-- R51 item 3: unset exactly if no CTL_START has succeeded, that is if no OUT_CONNECT has gone out (R256). -/
  unset_iff : s.cfg = none ↔ s.out.all (fun w => !isConnect w) = true
  /-- R43, R257: a stored configuration is legal. -/
  cfg_legal : ∀ c, s.cfg = some c → cfgLegal c = true
  /-- R51 item 4. -/
  receiving_incomplete : s.ctlState = .receiving → raComplete s.rxBuf = false
  /-- R51 item 5. -/
  parsing_complete : s.ctlState = .parsing → raComplete s.rxBuf = true
  /-- R51 item 6, while an attempt or a wait is under way. -/
  buffer_bound : running s.ctlState = true → s.rxBuf.length ≤ 259 + s.par.rxMax
  /-- R51 item 6, always. -/
  buffer_cap : s.rxBuf.length ≤ s.par.rxBufCap
  /-- R51 item 7, R262. -/
  attempt_bounds : ∀ c, s.cfg = some c → running s.ctlState = true →
    1 ≤ s.attempt.toNat ∧ s.attempt.toNat ≤ c.maxAttempts.toNat
  /-- 44_controller.md R262, R278, R282: a retry delay is entered only while attempts remain. -/
  retry_remains : s.ctlState = .retryWait → ∀ c, s.cfg = some c → s.attempt.toNat < c.maxAttempts.toNat
  /-- R51 item 8, R42. -/
  stopped_iff : s.ctlState = .stopped ↔ s.stopReason ≠ .none
  /-- R36: the request is there exactly while the connection is, and is what `build` makes of `cfg`. -/
  request_built : s.req.isSome = s.connOpen ∧ ∀ f, s.req = some f → ∃ c, s.cfg = some c ∧ buildCfg c = .ok f
  /-- R37: the parser result exists only from PARSING to the end of the attempt. -/
  result_span : s.pres.isSome = true → s.ctlState ∈ [.interpreting, .success, .retryableFailure]
  /-- R274: INTERPRETING has a result to read. -/
  interpreting_result : s.ctlState = .interpreting → s.pres.isSome = true
  /-- R276: SUCCESS has a reading to report. -/
  success_result : s.ctlState = .success → ∃ r, s.pres = some (.ok r)
  /-- 60_exceptions.md R321, R322: what the parser raises is retryable. -/
  result_retryable : ∀ e, s.pres = some (.err e) → errClass e = .retryable
  /-- 60_exceptions.md R322, R327: a retryable failure has recorded a retryable error. -/
  retryable_recorded : s.ctlState = .retryableFailure → ∃ e, s.lastError = some e ∧ errClass e = .retryable
  /-- 44_controller.md R264: a fatal failure has recorded ConnectionRefused. -/
  fatal_recorded : s.ctlState = .fatalFailure → s.lastError = some .connectionRefused
  /-- R285, R286: the cancel latch is never seen at a checkpoint. -/
  cancel_unseen : cancelCheckpoint s.ctlState = true → s.cancelPending = false
  /-- R40: the budget's latch is set only while a connection is open. -/
  deadline_open : s.deadlineExpired = true → s.connOpen = true
  /-- R33, R34, R360: before the first cycle no attempt was made, no error recorded and nothing emitted. -/
  idle_untouched : s.ctlState = .idle → s.attempt = 0#32 ∧ s.lastError = none ∧ s.out = []

/-- The host port refuses an arrival (60_exceptions.md R337). -/
def refusedArrival (s : State) : Arrival → Bool
  | .host w =>
    match hostStep w s with
    | .refused _ => true
    | .next _ => false
    | .fault _ => false
  | .event _ => false
  | .internal => false

/-- An arrival is a word of the host port. -/
def isHostWord : Arrival → Bool
  | .host _ => true
  | .event _ => false
  | .internal => false

/-- A run is finished (R297). -/
def finished (s : State) : Bool := decide (s.ctlState = .stopped)

/-- A finished run that ended normally, by cancellation (R297). -/
def endedNormally (s : State) : Bool := finished s && decide (s.stopReason = .cancelled)

/-- A finished run that ended in one of the two faults of 60_exceptions.md R338 (R297). -/
def endedInFault (s : State) : Bool :=
  finished s && (decide (s.stopReason = .misconfigured) || decide (s.stopReason = .unexpectedEvent))

/-- `k` steps of the block, stopping at a fault or a refusal. -/
def runSteps : Nat → State → Answer
  | 0, s => .next s
  | k + 1, s =>
    match step s with
    | .next t => runSteps k t
    | .fault r => .fault r
    | .refused r => .refused r

/-- Instructions executed one after another, stopping at a fault or a refusal. -/
def execAll : List Instr → State → Answer
  | [], s => .next s
  | i :: rest, s =>
    match exec i s with
    | .next t => execAll rest t
    | .fault r => .fault r
    | .refused r => .refused r

/-- The eight bytes of a request frame, offset by offset (30_encoding.md R100). -/
def requestOctets (slave fc : Byte) (start count : Half) : List Byte :=
  let body := [slave, fc, hi8 start, lo8 start, hi8 count, lo8 count]
  body ++ [lo8 (crc16 body), hi8 (crc16 body)]

/-- A word of format `HB` or `EB`: the code, the u16 length, high byte first, the bytes (30_encoding.md R110, R120). -/
def blobWord (code : Byte) (d : List Byte) : List Byte :=
  code :: hi8 (BitVec.ofNat 16 d.length) :: lo8 (BitVec.ofNat 16 d.length) :: d

/-- The words of a teardown (44_controller.md R261, R290). -/
def teardownWords (isOpen : Bool) : List OutWord := if isOpen then [.disarmDeadline, .close] else []

/-- What 44_controller.md R290 leaves: the terminal state, the reason, the attempt's state cleared, the words out. -/
def stoppedState (reason : StopReason) (kind : Byte) (s : State) : State :=
  { s with
    ctlState := .stopped, stopReason := reason, connOpen := false, rxBuf := [], req := none, pres := none,
    deadlineExpired := false, out := s.out ++ teardownWords s.connOpen ++ [.stopped reason kind] }

/-- What 44_controller.md R261 leaves. -/
def tornDown (s : State) : State :=
  { s with
    connOpen := false, rxBuf := [], req := none, pres := none, deadlineExpired := false,
    out := s.out ++ teardownWords s.connOpen }

/-- What 44_controller.md R260 leaves: a fresh attempt, its number `n`. -/
def freshAttempt (c : Cfg) (n : Quad) (s : State) : State :=
  { s with
    ctlState := .connecting, attempt := n, rxBuf := [], req := none, pres := none, deadlineExpired := false,
    out := s.out ++ [.connect c.timeout c.endpoint] }

/-- An event word of format `E0`. -/
def bareEvent (code : Byte) : Arrival := .event [code]

/-- What the collaborators answer while `k + 1` attempts in a row connect, send and hit the read timeout, the retry
timer elapsing between them (44_controller.md R296 item 1). -/
def timeoutScript : Nat → List Arrival
  | 0 => [bareEvent 0x20#8, bareEvent 0x23#8, bareEvent 0x27#8]
  | k + 1 => [bareEvent 0x20#8, bareEvent 0x23#8, bareEvent 0x27#8, bareEvent 0x29#8] ++ timeoutScript k

/-- The output of one attempt that connects, sends and hits the read timeout (44_controller.md R261, R265, R267). -/
def timeoutAttemptWords (c : Cfg) (rxMax : Nat) : List OutWord :=
  [.armDeadline c.timeout, .send (requestOctets c.slave c.func c.start c.count), .receive (BitVec.ofNat 16 rxMax),
    .disarmDeadline, .close]

/-- The output of `k + 1` such attempts after the first OUT_CONNECT: a retry delay and an OUT_CONNECT between two
attempts, none after the last, which is followed by the report and the poll sleep (44_controller.md R278, R296). -/
def timeoutCycleWords (c : Cfg) (rxMax : Nat) : Nat → List OutWord
  | 0 => timeoutAttemptWords c rxMax ++ [.reportFailure .receiveTimeout c.maxAttempts, .timer c.pollInterval]
  | k + 1 =>
    timeoutAttemptWords c rxMax ++ [.timer c.retryDelay, .connect c.timeout c.endpoint] ++ timeoutCycleWords c rxMax k

end Sys2Proof.Safety
end

