-- ==== Sys2Proof/Certificates/Slice0/Obligations.lean ====
section
/-! DEFINITION. The statements for the provers, from the numbered rules of spec/. An equation `exec i s = .next …`
gives the whole next state, so every field it does not name is unchanged: each such statement is its own frame. -/

open Sys2Proof Sys2Proof.Machine Sys2Proof.Safety

/-! ### Encodings -/

/-- Decode and encode agree on every well-formed instruction of the table (R100, R102, R110, R120). -/
def Obligations.DecodeEncodeAgree : Prop :=
  ∀ i : Instr, i.wellFormed = true → decodeOn i.port (encode i) = .ok i

/-- A word that decodes is the encoding of what it decodes to, on the port it stands on, and is well formed (a request
frame decodes by its pattern alone, whatever its fields hold; log 9). -/
def Obligations.DecodedWordReencodes : Prop :=
  ∀ (p : Port) (w : List Byte) (i : Instr), decodeOn p w = .ok i →
    i.port = p ∧ encode i = w ∧ (p ≠ .request → i.wellFormed = true)

/-- R114: which host words are illegal, and that every other word is one command. That a step passes over an illegal
word, records its response and is what comes after it, is the model's choice for R337 (log 8). -/
def Obligations.IllegalHostWords : Prop :=
  ∀ w : List Byte,
    ((∃ why, decodeHost w = .reject why) ↔
      (w = [] ∨ ∃ op rest, w = op :: rest ∧
        (op ∉ [0x01#8, 0x02#8, 0x03#8, 0x04#8, 0x05#8, 0x10#8, 0x11#8, 0x12#8] ∨
         (op ∈ [0x03#8, 0x11#8, 0x12#8] ∧ w.length ≠ 1) ∨
         (op = 0x02#8 ∧ w.length ≠ 17) ∨
         (op ∈ [0x01#8, 0x04#8, 0x05#8] ∧
            (w.length < 3 ∨ w.length ≠ 3 + (be16 (w.getD 1 0#8) (w.getD 2 0#8)).toNat)) ∨
         (op = 0x10#8 ∧ (w.length < 35 ∨ w.length ≠ 35 + (be16 (w.getD 33 0#8) (w.getD 34 0#8)).toNat))))) ∧
    ((∃ why, decodeHost w = .reject why) → ∀ (s : State) (rest : List Arrival), s.pending = .host w :: rest →
      step s = step { s with pending := rest, resp := s.resp ++ [.illegalCommand] }) ∧
    ((∃ i, decodeHost w = .ok i) ∨ ∃ why, decodeHost w = .reject why)

/-- R122, R290, R291: a malformed event word is an unexpected event: it stops the block in every resting state but
STOPPED, where it is ignored. -/
def Obligations.MalformedEventWords : Prop :=
  ∀ (s : State) (w : List Byte) (rest : List Arrival), s.pending = .event w :: rest → transient s.ctlState = false →
    (w = [] ∨ ∃ op tail, w = op :: tail ∧
      (op ∉ [0x20#8, 0x21#8, 0x22#8, 0x23#8, 0x24#8, 0x25#8, 0x26#8, 0x27#8, 0x28#8, 0x29#8] ∨
       (op ≠ 0x25#8 ∧ w.length ≠ 1) ∨
       (op = 0x25#8 ∧ (w.length < 3 ∨ w.length ≠ 3 + (be16 (w.getD 1 0#8) (w.getD 2 0#8)).toNat)))) →
    step s = .next (if s.ctlState = .stopped then { s with pending := rest }
      else stoppedState .unexpectedEvent 0#8 { s with pending := rest })

/-- Words written out from the spec's encodings decode to the instruction they stand for (95_test_vectors.md). -/
def Obligations.WrittenWordsDecode : Prop :=
  decodeHost [0x01#8, 0x00#8, 0x02#8, 0x01#8, 0x03#8] = .ok (.crc16 [0x01#8, 0x03#8]) ∧
  decodeHost [0x12#8] = .ok .ctlStatus ∧
  decodeEvent [0x25#8, 0x00#8, 0x03#8, 0x01#8, 0x04#8, 0x04#8] = .ok (.evRxData [0x01#8, 0x04#8, 0x04#8]) ∧
  decodeRequest [0x01#8, 0x04#8, 0x00#8, 0x00#8, 0x00#8, 0x02#8, 0x71#8, 0xCB#8] =
    .ok (.reqReadInputRegisters 0x01#8 0#16 2#16 0x71#8 0xCB#8) ∧
  decodeResponse [0x01#8, 0x03#8, 0x02#8, 0x12#8, 0x34#8, 0xB5#8, 0x33#8] =
    .ok (.rspReadHoldingRegisters 0x01#8 0x02#8 [0x12#8, 0x34#8] 0xB5#8 0x33#8)

/-- R130: the bytes of each output word, operands big-endian. -/
def Obligations.OutputWordLayout : Prop :=
  (∀ (t : Quad) (ep : List Byte), ep.length ≤ 65535 → outBytes (.connect t ep) =
    [0x40#8, (t >>> 24).setWidth 8, (t >>> 16).setWidth 8, (t >>> 8).setWidth 8, t.setWidth 8,
      BitVec.ofNat 8 (ep.length / 256), BitVec.ofNat 8 (ep.length % 256)] ++ ep) ∧
  (∀ f : List Byte, outBytes (.send f) = 0x41#8 :: f) ∧
  (∀ m : Half, outBytes (.receive m) = [0x42#8, (m >>> 8).setWidth 8, m.setWidth 8]) ∧
  outBytes .close = [0x43#8] ∧
  (∀ t : Quad, outBytes (.armDeadline t) =
    [0x44#8, (t >>> 24).setWidth 8, (t >>> 16).setWidth 8, (t >>> 8).setWidth 8, t.setWidth 8]) ∧
  outBytes .disarmDeadline = [0x45#8] ∧
  (∀ t : Quad, outBytes (.timer t) =
    [0x46#8, (t >>> 24).setWidth 8, (t >>> 16).setWidth 8, (t >>> 8).setWidth 8, t.setWidth 8]) ∧
  (∀ r : Reading, r.regs.length ≤ 65535 → outBytes (.reportSuccess r) =
    [0x47#8, r.slave, r.fc, BitVec.ofNat 8 (r.regs.length / 256), BitVec.ofNat 8 (r.regs.length % 256)] ++
      r.regs.flatMap (fun v : Half => [(v >>> 8).setWidth 8, v.setWidth 8])) ∧
  (∀ (rcv cmp : Half) (n : Quad), outBytes (.reportFailure (.crcMismatch rcv cmp) n) =
    [0x48#8, 3#8, (n >>> 24).setWidth 8, (n >>> 16).setWidth 8, (n >>> 8).setWidth 8, n.setWidth 8, 4#8,
      (rcv >>> 8).setWidth 8, rcv.setWidth 8, (cmp >>> 8).setWidth 8, cmp.setWidth 8]) ∧
  (∀ (e : Err) (n : Quad), (∀ rcv cmp, e ≠ .crcMismatch rcv cmp) → outBytes (.reportFailure e n) =
    [0x48#8, errCode e, (n >>> 24).setWidth 8, (n >>> 16).setWidth 8, (n >>> 8).setWidth 8, n.setWidth 8, 0#8]) ∧
  (∀ (r : StopReason) (k : Byte), outBytes (.stopped r k) = [0x49#8, stopCode r, k]) ∧
  (∀ r : StopReason, stopKind r = if r = .misconfigured then 1#8 else 0#8)

/-! ### CRC Engine -/

/-- R150, R151: the empty sequence gives 0xFFFF, and each further byte is XORed into the low bits and shifted
eight times, the polynomial going in when a 1 drops out; nothing is XORed at the end. -/
def Obligations.CrcByBytes : Prop :=
  crc16 [] = 0xFFFF#16 ∧
  ∀ (s : List Byte) (b : Byte), crc16 (s ++ [b]) =
    (fun c : Half => if c.getLsbD 0 then (c >>> 1) ^^^ 0xA001#16 else c >>> 1)^[8] (crc16 s ^^^ b.setWidth 16)

/-- R155: the check value, low byte 0x37, high byte 0x4B, and the register after each byte. -/
def Obligations.CrcCheckValue : Prop :=
  crc16 [0x31#8, 0x32#8, 0x33#8, 0x34#8, 0x35#8, 0x36#8, 0x37#8, 0x38#8, 0x39#8] = 0x4B37#16 ∧
  crcBytes [0x31#8, 0x32#8, 0x33#8, 0x34#8, 0x35#8, 0x36#8, 0x37#8, 0x38#8, 0x39#8] = [0x37#8, 0x4B#8] ∧
  (List.range 9).map (fun k => crc16
      ([0x31#8, 0x32#8, 0x33#8, 0x34#8, 0x35#8, 0x36#8, 0x37#8, 0x38#8, 0x39#8].take (k + 1))) =
    [0x947E#16, 0xF595#16, 0x7A75#16, 0x30BA#16, 0xA471#16, 0x32E4#16, 0x9D73#16, 0x37DD#16, 0x4B37#16]

/-- The CRC over a byte sequence followed by its own checksum, low byte first, is 0 (95_test_vectors.md C12). -/
def Obligations.CrcResidueZero : Prop :=
  ∀ s : List Byte, crc16 (s ++ [lo8 (crc16 s), hi8 (crc16 s)]) = 0#16

/-- R153: CRC16 responds with the checksum, low byte first, in every state, and changes nothing else; its word is 0x01,
the length and the bytes, and a word one byte shorter is illegal. -/
def Obligations.CrcCommand : Prop :=
  ∀ d : List Byte,
    (∀ s : State, exec (.crc16 d) s = .next { s with resp := s.resp ++ [.ok [lo8 (crc16 d), hi8 (crc16 d)]] }) ∧
    (d.length ≤ 65535 → decodeHost (blobWord 0x01#8 d) = .ok (.crc16 d) ∧
      ∃ why, decodeHost (blobWord 0x01#8 d).dropLast = .reject why)

/-! ### Frame Builder -/

/-- R170, R171, R173: `build` gives the frame of R100, eight bytes long with a CRC that checks, exactly for the
parameters in range, and InvalidParameter for all others. -/
def Obligations.BuilderFrames : Prop :=
  ∀ slave fc start count : Int,
    (0 ≤ slave ∧ slave ≤ 247 ∧ (fc = 3 ∨ fc = 4) ∧ 0 ≤ start ∧ start ≤ 65535 ∧ 1 ≤ count ∧ count ≤ 65535 →
      ∃ f, build slave fc start count = .ok f ∧ f.length = 8 ∧
        f.take 6 = [BitVec.ofInt 8 slave, BitVec.ofInt 8 fc, BitVec.ofInt 8 (start / 256), BitVec.ofInt 8 (start % 256),
          BitVec.ofInt 8 (count / 256), BitVec.ofInt 8 (count % 256)] ∧
        crc16 (f.take 6) = le16 (f.getD 6 0#8) (f.getD 7 0#8)) ∧
    (¬ (0 ≤ slave ∧ slave ≤ 247 ∧ (fc = 3 ∨ fc = 4) ∧ 0 ≤ start ∧ start ≤ 65535 ∧ 1 ≤ count ∧ count ≤ 65535) →
      build slave fc start count = .err .invalidParameter)

/-- R172: BUILD responds with the frame, or with ERR InvalidParameter, in every state, and changes nothing else; its word
is 0x02 and the four operands. -/
def Obligations.BuildCommand : Prop :=
  ∀ (slave fc start count : Quad) (s : State),
    decodeHost (0x02#8 :: bytes32 slave ++ bytes32 fc ++ bytes32 start ++ bytes32 count) =
      .ok (.build slave fc start count) ∧
    exec (.build slave fc start count) s = .next { s with
      resp := s.resp ++
        [if 0 ≤ slave.toInt ∧ slave.toInt ≤ 247 ∧ (fc.toInt = 3 ∨ fc.toInt = 4) ∧ 0 ≤ start.toInt ∧
            start.toInt ≤ 65535 ∧ 1 ≤ count.toInt ∧ count.toInt ≤ 65535
         then .ok (requestOctets (slave.setWidth 8) (fc.setWidth 8) (start.setWidth 16) (count.setWidth 16))
         else .err .invalidParameter] }

/-- R171, R265: a request frame of the table, well formed, goes out from CONNECTING: the connection is open, the
budget armed, the frame kept in `req` and sent. In every other state nothing is on the wire and nothing changes (the
model's choice; log 9). -/
def Obligations.RequestFramesSent : Prop :=
  ∀ (slave : Byte) (start count : Half) (lo hi : Byte) (s : State),
    (Instr.wellFormed (.reqReadHoldingRegisters slave start count lo hi) = true → ∀ c, s.cfg = some c →
      s.ctlState = .connecting →
      exec (.reqReadHoldingRegisters slave start count lo hi) s = .next { s with
        connOpen := true, req := some (requestOctets slave 3#8 start count), ctlState := .sending,
        out := s.out ++ [.armDeadline c.timeout, .send (requestOctets slave 3#8 start count)] }) ∧
    (Instr.wellFormed (.reqReadInputRegisters slave start count lo hi) = true → ∀ c, s.cfg = some c →
      s.ctlState = .connecting →
      exec (.reqReadInputRegisters slave start count lo hi) s = .next { s with
        connOpen := true, req := some (requestOctets slave 4#8 start count), ctlState := .sending,
        out := s.out ++ [.armDeadline c.timeout, .send (requestOctets slave 4#8 start count)] }) ∧
    (s.ctlState ≠ .connecting →
      exec (.reqReadHoldingRegisters slave start count lo hi) s = .next s ∧
      exec (.reqReadInputRegisters slave start count lo hi) s = .next s)

/-! ### Frame Reassembler -/

/-- R192: the completion predicate. -/
def Obligations.CompletionPredicate : Prop :=
  ∀ b : List Byte, raComplete b = true ↔ 5 ≤ b.length ∧ 3 + (b.getD 2 0#8).toNat + 2 ≤ b.length

/-- R191, R199: RA_RESET empties the buffer while the host owns it, and is refused with ILLEGAL_STATE otherwise. -/
def Obligations.RaResetCommand : Prop :=
  decodeHost [0x03#8] = .ok .raReset ∧ (refusalResponse .illegalState).map responseBytes = some [0x81#8] ∧
  ∀ s : State,
    (s.ctlState = .idle ∨ s.ctlState = .stopped →
      exec .raReset s = .next { s with rxBuf := [], resp := s.resp ++ [.ok []] }) ∧
    (s.ctlState ≠ .idle ∧ s.ctlState ≠ .stopped →
      exec .raReset s = .refused .illegalState)

/-- R193, R194, R199: RA_FEED, in the rule's order of checks: refused with ILLEGAL_STATE while an attempt owns the
buffer, CLOSED for an empty chunk, refused with CAPACITY past the capacity, else appended. -/
def Obligations.RaFeedCommand : Prop :=
  (refusalResponse .illegalState).map responseBytes = some [0x81#8] ∧
  (refusalResponse .capacity).map responseBytes = some [0x82#8] ∧
  ∀ (d : List Byte) (s : State),
    (d.length ≤ 65535 → decodeHost (blobWord 0x04#8 d) = .ok (.raFeed d)) ∧
    (s.ctlState ≠ .idle ∧ s.ctlState ≠ .stopped → exec (.raFeed d) s = .refused .illegalState) ∧
    (s.ctlState = .idle ∨ s.ctlState = .stopped →
      (d = [] → exec (.raFeed d) s = .next { s with resp := s.resp ++ [.ok [2#8]] }) ∧
      (d ≠ [] → s.par.rxBufCap < s.rxBuf.length + d.length → exec (.raFeed d) s = .refused .capacity) ∧
      (d ≠ [] → s.rxBuf.length + d.length ≤ s.par.rxBufCap →
        exec (.raFeed d) s = .next { s with
          rxBuf := s.rxBuf ++ d
          resp := s.resp ++
            [.ok [if 5 ≤ (s.rxBuf ++ d).length ∧ 3 + ((s.rxBuf ++ d).getD 2 0#8).toNat + 2 ≤ (s.rxBuf ++ d).length
                  then 1#8 else 0#8]] }))

/-- R198: a byte sequence fed one byte at a time (RA_FEED_SPLIT with k = 1) and fed as one chunk leaves the same
buffer; byte by byte each answer is COMPLETE exactly from the shortest complete opening on, and the one chunk answers
COMPLETE exactly if the whole sequence is complete. (That the empty sequence, fed byte by byte, is no word is the
model's choice, log 22; R198 is about sequences that are complete.) -/
def Obligations.ChunkSizeInvariance : Prop :=
  ∀ (f : List Byte) (s : State), (s.ctlState = .idle ∨ s.ctlState = .stopped) → s.rxBuf = [] →
    f.length ≤ s.par.rxBufCap →
    execAll (raFeedSplit f 1) s = .next { s with
      rxBuf := f
      resp := s.resp ++ (List.range f.length).map
        (fun k => .ok [if raComplete (f.take (k + 1)) then 1#8 else 0#8]) } ∧
    (f ≠ [] → exec (.raFeed f) s = .next { s with
      rxBuf := f, resp := s.resp ++ [.ok [if raComplete f then 1#8 else 0#8]] }) ∧
    (∀ j k : Nat, j ≤ k → raComplete (f.take j) = true → raComplete (f.take k) = true)

/-! ### Frame Parser -/

/-- R220, R222 to R227, R325: the parser's steps in order, the first failure deciding; the byte-count is not compared
with the data, which is taken two bytes at a time, high byte first, an odd last byte dropped. -/
def Obligations.ParserSteps : Prop :=
  (∀ f : List Byte, f.length < 4 → parse f = .err .frameTooShort) ∧
  (∀ (slave fc : Byte) (payload : List Byte) (lo hi : Byte),
    (le16 lo hi ≠ crc16 (slave :: fc :: payload) →
      parse (slave :: fc :: payload ++ [lo, hi]) =
        .err (.crcMismatch (le16 lo hi) (crc16 (slave :: fc :: payload)))) ∧
    (le16 lo hi = crc16 (slave :: fc :: payload) → fc ≠ 3#8 ∧ fc ≠ 4#8 →
      parse (slave :: fc :: payload ++ [lo, hi]) = .err .unsupportedFunctionCode) ∧
    (le16 lo hi = crc16 (slave :: fc :: payload) → (fc = 3#8 ∨ fc = 4#8) → payload = [] →
      parse (slave :: fc :: payload ++ [lo, hi]) = .err .emptyPayload) ∧
    (le16 lo hi = crc16 (slave :: fc :: payload) → (fc = 3#8 ∨ fc = 4#8) →
      ∀ (bc : Byte) (data : List Byte), payload = bc :: data →
        ∃ regs, parse (slave :: fc :: payload ++ [lo, hi]) = .ok { slave := slave, fc := fc, regs := regs } ∧
          regs.length = data.length / 2 ∧
          ∀ k, k < data.length / 2 → regs[k]? = some (be16 (data.getD (2 * k) 0#8) (data.getD (2 * k + 1) 0#8))))

/-- R228: PARSE responds with the reading or with ERR, its kind and its info, in every state, and changes nothing
else. -/
def Obligations.ParseCommand : Prop :=
  ∀ (f : List Byte) (s : State),
    (f.length ≤ 65535 → decodeHost (blobWord 0x05#8 f) = .ok (.parse f)) ∧
    (∀ r, parse f = .ok r → exec (.parse f) s = .next { s with
      resp := s.resp ++ [.ok ([r.slave, r.fc, hi8 (BitVec.ofNat 16 r.regs.length), lo8 (BitVec.ofNat 16 r.regs.length)] ++
        r.regs.flatMap (fun v : Half => [hi8 v, lo8 v]))] }) ∧
    (∀ e, parse f = .err e → exec (.parse f) s = .next { s with resp := s.resp ++ [.err e] }) ∧
    (∀ rcv cmp : Half, responseBytes (.err (.crcMismatch rcv cmp)) =
      [0x01#8, 3#8, 4#8, hi8 rcv, lo8 rcv, hi8 cmp, lo8 cmp]) ∧
    (∀ e : Err, (∀ rcv cmp, e ≠ .crcMismatch rcv cmp) → responseBytes (.err e) = [0x01#8, errCode e, 0#8])

/-- R230: one flipped bit in the two CRC bytes of a frame whose CRC checks always gives CrcMismatch. -/
def Obligations.FlippedCrcBit : Prop :=
  ∀ (f : List Byte) (at_ bit : Nat), 4 ≤ f.length → receivedCrc f = crc16 (covered f) →
    (at_ = f.length - 2 ∨ at_ = f.length - 1) → bit < 8 →
    ∃ received, received ≠ crc16 (covered f) ∧
      parse (f.set at_ (f.getD at_ 0#8 ^^^ (1#8 <<< bit))) = .err (.crcMismatch received (crc16 (covered f)))

/-- R195, C11: a frame that parses and holds whole register values, followed by one 0x00 byte, parses to the same
reading. (R195's sentence says so of any frame; with an odd data byte left over the extra byte completes a value, so
the statement asks for whole values; log 17.) -/
def Obligations.SurplusZeroByte : Prop :=
  ∀ (f : List Byte) (r : Reading), parse f = .ok r → f.length % 2 = 1 → parse (f ++ [0x00#8]) = .ok r

/-- R220, R274: a response frame of the table in PARSING: the parser's result is kept, the buffer destroyed, INTERPRETING
next. In every other state a bare frame changes nothing (the model's choice; log 10). -/
def Obligations.ResponseFramesParsed : Prop :=
  ∀ (slave bc : Byte) (data : List Byte) (lo hi : Byte) (s : State),
    (s.ctlState = .parsing →
      exec (.rspReadHoldingRegisters slave bc data lo hi) s = .next { s with
        pres := some (parse (slave :: 3#8 :: bc :: data ++ [lo, hi])), rxBuf := [], ctlState := .interpreting } ∧
      exec (.rspReadInputRegisters slave bc data lo hi) s = .next { s with
        pres := some (parse (slave :: 4#8 :: bc :: data ++ [lo, hi])), rxBuf := [], ctlState := .interpreting }) ∧
    (s.ctlState ≠ .parsing →
      exec (.rspReadHoldingRegisters slave bc data lo hi) s = .next s ∧
      exec (.rspReadInputRegisters slave bc data lo hi) s = .next s)

/-! ### The controller's host commands -/

/-- R256, R257: CTL_START stores a legal configuration whole and begins the first attempt; it stops the block on an
illegal one; it is refused with ILLEGAL_STATE outside IDLE. -/
def Obligations.CtlStartCommand : Prop :=
  (refusalResponse .illegalState).map responseBytes = some [0x81#8] ∧
  ∀ (slave fc start count maxAttempts timeout retryDelay pollInterval : Quad) (endpoint : List Byte) (s : State),
    (endpoint.length ≤ 65535 →
      decodeHost (0x10#8 :: bytes32 slave ++ bytes32 fc ++ bytes32 start ++ bytes32 count ++ bytes32 maxAttempts ++
          bytes32 timeout ++ bytes32 retryDelay ++ bytes32 pollInterval ++
          bytes16 (BitVec.ofNat 16 endpoint.length) ++ endpoint) =
        .ok (.ctlStart slave fc start count maxAttempts timeout retryDelay pollInterval endpoint)) ∧
    (s.ctlState ≠ .idle →
      exec (.ctlStart slave fc start count maxAttempts timeout retryDelay pollInterval endpoint) s =
        .refused .illegalState) ∧
    (s.ctlState = .idle →
      exec (.ctlStart slave fc start count maxAttempts timeout retryDelay pollInterval endpoint) s = .next
      (if (0 ≤ slave.toInt ∧ slave.toInt ≤ 247 ∧ (fc.toInt = 3 ∨ fc.toInt = 4) ∧ 0 ≤ start.toInt ∧
            start.toInt ≤ 65535 ∧ 1 ≤ count.toInt ∧ count.toInt ≤ 65535) ∧ 1 ≤ maxAttempts.toInt
       then { s with
          cfg := some
            { slave := slave.setWidth 8, func := fc.setWidth 8, start := start.setWidth 16, count := count.setWidth 16,
              maxAttempts := maxAttempts, timeout := timeout, retryDelay := retryDelay, pollInterval := pollInterval,
              endpoint := endpoint }
          resp := s.resp ++ [.ok []], attempt := 1#32, lastError := none, rxBuf := [], req := none, pres := none,
          deadlineExpired := false, out := s.out ++ [.connect timeout endpoint], ctlState := .connecting }
       else stoppedState .misconfigured 1#8 { s with resp := s.resp ++ [.err .invalidParameter] }))

/-- R285, R286 item 1: CTL_CANCEL latches in every state and stops at once exactly in IDLE, RETRY_WAIT and POLL_SLEEP. -/
def Obligations.CtlCancelCommand : Prop :=
  decodeHost [0x11#8] = .ok .ctlCancel ∧
  ∀ s : State,
    (s.ctlState = .idle ∨ s.ctlState = .retryWait ∨ s.ctlState = .pollSleep →
      exec .ctlCancel s = .next
        (stoppedState .cancelled 0#8 { s with cancelPending := true, resp := s.resp ++ [.ok []] })) ∧
    (¬ (s.ctlState = .idle ∨ s.ctlState = .retryWait ∨ s.ctlState = .pollSleep) →
      exec .ctlCancel s = .next { s with cancelPending := true, resp := s.resp ++ [.ok []] })

/-- R289: CTL_STATUS responds with the status registers, in every state, and changes nothing else. -/
def Obligations.CtlStatusCommand : Prop :=
  decodeHost [0x12#8] = .ok .ctlStatus ∧
  ∀ s : State, exec .ctlStatus s = .next { s with
    resp := s.resp ++ [.ok [ctlCode s.ctlState, (s.attempt >>> 24).setWidth 8, (s.attempt >>> 16).setWidth 8,
      (s.attempt >>> 8).setWidth 8, s.attempt.setWidth 8, (match s.lastError with | none => 0#8 | some e => errCode e),
      BitVec.ofNat 8 (s.connOpen.toNat + 2 * s.deadlineExpired.toNat + 4 * s.cancelPending.toNat +
        8 * s.cfg.isSome.toNat),
      stopCode s.stopReason]] }

/-! ### Events -/

/-- R265, R257: EV_CONNECT_OK opens the connection, arms the budget, builds the request afresh and sends it. -/
def Obligations.ConnectOkEvent : Prop :=
  decodeEvent [0x20#8] = .ok .evConnectOk ∧
  ∀ (s : State) (c : Cfg), s.ctlState = .connecting → s.cfg = some c → cfgLegal c = true →
    exec .evConnectOk s = .next { s with
      connOpen := true, req := some (requestOctets c.slave c.func c.start c.count), ctlState := .sending,
      out := s.out ++ [.armDeadline c.timeout, .send (requestOctets c.slave c.func c.start c.count)] }

/-- R264, R266: a refusal is fatal, any other connect failure is retryable; both only record and move. -/
def Obligations.ConnectFailureEvents : Prop :=
  decodeEvent [0x21#8] = .ok .evConnectRefused ∧ decodeEvent [0x22#8] = .ok .evConnectError ∧
  ∀ s : State, s.ctlState = .connecting →
    exec .evConnectRefused s = .next { s with lastError := some .connectionRefused, ctlState := .fatalFailure } ∧
    exec .evConnectError s = .next { s with lastError := some .transportError, ctlState := .retryableFailure }

/-- R267, R271: the answers to a send. -/
def Obligations.SendEvents : Prop :=
  decodeEvent [0x23#8] = .ok .evSendOk ∧ decodeEvent [0x24#8] = .ok .evSendError ∧
  ∀ s : State, s.ctlState = .sending →
    exec .evSendOk s = .next
      (if s.deadlineExpired then { s with lastError := some .receiveTimeout, ctlState := .retryableFailure }
       else { s with out := s.out ++ [.receive (BitVec.ofNat 16 s.par.rxMax)], ctlState := .receiving }) ∧
    exec .evSendError s = .next { s with lastError := some .transportError, ctlState := .retryableFailure }

/-- R269: a chunk in RECEIVING: more than RX_MAX bytes stop the block; else a close, completion, an expired budget, or
another read, completion being tested before the budget (R326). -/
def Obligations.RxDataEvent : Prop :=
  ∀ (d : List Byte) (s : State), s.ctlState = .receiving →
    (d.length ≤ 65535 → decodeEvent (blobWord 0x25#8 d) = .ok (.evRxData d)) ∧
    exec (.evRxData d) s = .next
      (if s.par.rxMax < d.length then stoppedState .unexpectedEvent 0#8 s
       else if d = [] then { s with lastError := some .transportError, ctlState := .retryableFailure }
       else if raComplete (s.rxBuf ++ d) then { s with rxBuf := s.rxBuf ++ d, ctlState := .parsing }
       else if s.deadlineExpired then { s with
          rxBuf := s.rxBuf ++ d, lastError := some .receiveTimeout, ctlState := .retryableFailure }
       else { s with rxBuf := s.rxBuf ++ d, out := s.out ++ [.receive (BitVec.ofNat 16 s.par.rxMax)] })

/-- R270, R273: a read that fails or times out ends the attempt. -/
def Obligations.RxFailureEvents : Prop :=
  decodeEvent [0x26#8] = .ok .evRxError ∧ decodeEvent [0x27#8] = .ok .evRxTimeout ∧
  ∀ s : State, s.ctlState = .receiving →
    exec .evRxError s = .next { s with lastError := some .transportError, ctlState := .retryableFailure } ∧
    exec .evRxTimeout s = .next { s with lastError := some .receiveTimeout, ctlState := .retryableFailure }

/-- R272: EV_DEADLINE only latches, once per attempt, in SENDING and RECEIVING. -/
def Obligations.DeadlineEvent : Prop :=
  decodeEvent [0x28#8] = .ok .evDeadline ∧
  ∀ s : State, (s.ctlState = .sending ∨ s.ctlState = .receiving) → s.deadlineExpired = false →
    exec .evDeadline s = .next { s with deadlineExpired := true }

/-- R284, R259, R260, R328: EV_TIMER_DONE begins the next attempt after a retry delay and a new cycle after a poll
sleep. -/
def Obligations.TimerDoneEvent : Prop :=
  decodeEvent [0x29#8] = .ok .evTimerDone ∧
  ∀ (s : State) (c : Cfg), s.cfg = some c →
    (s.ctlState = .retryWait → exec .evTimerDone s = .next (freshAttempt c (s.attempt + 1#32) s)) ∧
    (s.ctlState = .pollSleep → exec .evTimerDone s = .next (freshAttempt c 1#32 { s with lastError := none }))

/-- R291, R290: the acceptance table, read the other way: an event that a resting state other than STOPPED does not
take stops the block with UNEXPECTED_EVENT. -/
def Obligations.UnexpectedEventsStop : Prop :=
  ∀ (i : Instr) (s : State), i.port = .event →
    (s.ctlState = .idle ∨
     (s.ctlState = .connecting ∧ i ≠ .evConnectOk ∧ i ≠ .evConnectRefused ∧ i ≠ .evConnectError) ∨
     (s.ctlState = .sending ∧ i ≠ .evSendOk ∧ i ≠ .evSendError ∧ ¬ (i = .evDeadline ∧ s.deadlineExpired = false)) ∨
     (s.ctlState = .receiving ∧ (∀ d, d.length ≤ s.par.rxMax → i ≠ .evRxData d) ∧ i ≠ .evRxError ∧ i ≠ .evRxTimeout ∧
        ¬ (i = .evDeadline ∧ s.deadlineExpired = false)) ∨
     ((s.ctlState = .retryWait ∨ s.ctlState = .pollSleep) ∧ i ≠ .evTimerDone)) →
    exec i s = .next (stoppedState .unexpectedEvent 0#8 s)

/-- R290: in STOPPED every well-formed event is taken and ignored. -/
def Obligations.StoppedIgnoresEvents : Prop :=
  ∀ (i : Instr) (s : State), i.port = .event → s.ctlState = .stopped → exec i s = .next s

/-- R250, R251, R86: what a transient state takes next. With nothing offered, or with an event offered, it takes its
internal step and the event goes on waiting; a host command that is not refused is taken at once; and an event executed there goes back to
waiting (the model's form of waiting; log 6). -/
def Obligations.EventsWaitInTransientStates : Prop :=
  ∀ s : State, transient s.ctlState = true →
    (s.pending = [] → step s = internalStep s) ∧
    (∀ w rest, s.pending = .event w :: rest →
      step s = internalStep s ∧ ∀ t, step s = .next t → t.pending = .event w :: rest) ∧
    (∀ w rest i, s.pending = .host w :: rest → decodeHost w = .ok i →
      (∀ r, exec i { s with pending := rest } ≠ .refused r) → step s = exec i { s with pending := rest }) ∧
    (∀ i : Instr, i.port = .event → exec i s = .next { s with pending := .event (encode i) :: s.pending })

/-! ### Internal steps and failures -/

/-- R274: PARSING parses what extraction gives, in both extraction modes (R195). -/
def Obligations.ParsingInternalStep : Prop :=
  ∀ s : State, s.ctlState = .parsing →
    internalStep s = .next { s with
      pres := some (parse (match s.par.extractMode with
        | .wholeBuffer => s.rxBuf
        | .truncate => s.rxBuf.take ((s.rxBuf.getD 2 0#8).toNat + 5))),
      rxBuf := [], ctlState := .interpreting }

/-- R276: INTERPRETING. -/
def Obligations.InterpretingInternalStep : Prop :=
  ∀ s : State, s.ctlState = .interpreting →
    (∀ r, s.pres = some (.ok r) → internalStep s = .next { s with ctlState := .success }) ∧
    (∀ f e, s.pres = some (parse f) → parse f = .err e →
      internalStep s = .next { s with lastError := some e, ctlState := .retryableFailure })

/-- R277, R261, R283: SUCCESS tears down, reports the reading, then sleeps, or stops if a cancellation is latched. -/
def Obligations.SuccessInternalStep : Prop :=
  ∀ (s : State) (r : Reading) (c : Cfg), s.ctlState = .success → s.pres = some (.ok r) → s.cfg = some c →
    (s.cancelPending = false → internalStep s = .next { tornDown s with
      out := (tornDown s).out ++ [.reportSuccess r, .timer c.pollInterval], ctlState := .pollSleep }) ∧
    (s.cancelPending = true → internalStep s = .next { tornDown s with
      out := (tornDown s).out ++ [.reportSuccess r, .stopped .cancelled 0#8], ctlState := .stopped,
      stopReason := .cancelled })

/-- R278, R261, R262, R282, R283: RETRYABLE_FAILURE tears down; with attempts remaining it waits the retry delay and
reports nothing, otherwise it reports the last error and sleeps; a latched cancellation stops it at either wait. -/
def Obligations.RetryableFailureInternalStep : Prop :=
  ∀ (s : State) (c : Cfg), s.ctlState = .retryableFailure → s.cfg = some c →
    (s.attempt.toNat < c.maxAttempts.toNat →
      internalStep s = .next
        (if s.cancelPending then { tornDown s with
            out := (tornDown s).out ++ [.stopped .cancelled 0#8], ctlState := .stopped, stopReason := .cancelled }
         else { tornDown s with out := (tornDown s).out ++ [.timer c.retryDelay], ctlState := .retryWait })) ∧
    (c.maxAttempts.toNat ≤ s.attempt.toNat → ∀ e, s.lastError = some e →
      internalStep s = .next
        (if s.cancelPending then { tornDown s with
            out := (tornDown s).out ++ [.reportFailure e s.attempt, .stopped .cancelled 0#8], ctlState := .stopped,
            stopReason := .cancelled }
         else { tornDown s with
            out := (tornDown s).out ++ [.reportFailure e s.attempt, .timer c.pollInterval], ctlState := .pollSleep }))

/-- R279: FATAL_FAILURE reports ConnectionRefused and sleeps, or stops if a cancellation is latched. -/
def Obligations.FatalFailureInternalStep : Prop :=
  ∀ (s : State) (c : Cfg), s.ctlState = .fatalFailure → s.cfg = some c →
    internalStep s = .next
      (if s.cancelPending then { tornDown s with
          out := (tornDown s).out ++ [.reportFailure .connectionRefused s.attempt, .stopped .cancelled 0#8],
          ctlState := .stopped, stopReason := .cancelled }
       else { tornDown s with
          out := (tornDown s).out ++ [.reportFailure .connectionRefused s.attempt, .timer c.pollInterval],
          ctlState := .pollSleep })

/-- R322, R327: taking a failure saves the error and moves by its class (codes 2 to 7 retryable, code 8 fatal), and
changes nothing else. -/
def Obligations.FailureEntry : Prop :=
  ∀ (e : Err) (s : State),
    (2 ≤ (errCode e).toNat ∧ (errCode e).toNat ≤ 7 →
      raiseError e s = { s with lastError := some e, ctlState := .retryableFailure }) ∧
    (errCode e = 8#8 → raiseError e s = { s with lastError := some e, ctlState := .fatalFailure }) ∧
    (errCode e = 1#8 → raiseError e s = stoppedState .misconfigured 1#8 s)

/-- R251: from every transient state of a good machine at most three internal steps reach a resting state, taking no
input; from FATAL_FAILURE one is enough. -/
def Obligations.InternalStepsSettle : Prop :=
  ∀ s : State, Inv s → transient s.ctlState = true →
    (∃ t, settle 3 s = .next t ∧ transient t.ctlState = false ∧ t.pending = s.pending) ∧
    (s.ctlState = .fatalFailure → ∃ t, settle 1 s = .next t ∧ transient t.ctlState = false)

/-! ### The machine as a whole -/

/-- A step runs the decoded instruction: from the host port in every state (a refused command is passed over with its
response, R337; log 8), from the event port in a resting state,
from the receive buffer in PARSING, and a request frame as `build` makes it of `cfg` at EV_CONNECT_OK. -/
def Obligations.StepRunsDecoded : Prop :=
  (∀ (s : State) (w : List Byte) (rest : List Arrival) (i : Instr), s.pending = .host w :: rest →
    decodeHost w = .ok i →
    ((∀ r, exec i { s with pending := rest } ≠ .refused r) → step s = exec i { s with pending := rest }) ∧
    (∀ r, exec i { s with pending := rest } = .refused r →
      ∃ a, refusalResponse r = some a ∧ step s = step { s with pending := rest, resp := s.resp ++ [a] })) ∧
  (∀ (s : State) (w : List Byte) (rest : List Arrival) (i : Instr), s.pending = .event w :: rest →
    transient s.ctlState = false → decodeEvent w = .ok i → step s = exec i { s with pending := rest }) ∧
  (∀ (s : State) (rest : List Arrival) (i : Instr), s.ctlState = .parsing → s.pending = .internal :: rest →
    decodeResponse (raExtract s.par.extractMode s.rxBuf) = .ok i → step s = exec i { s with pending := rest }) ∧
  (∀ (s : State) (i : Instr), s.ctlState = .parsing → s.pending = [] →
    decodeResponse (raExtract s.par.extractMode s.rxBuf) = .ok i → step s = exec i s) ∧
  (∀ (s : State) (rest : List Arrival) (c : Cfg) (f : List Byte) (i : Instr), s.ctlState = .connecting →
    s.pending = .event [0x20#8] :: rest → s.cfg = some c → buildCfg c = .ok f → decodeRequest f = .ok i →
    step s = exec i { s with pending := rest })

/-- R50, R360: the reset values, whatever the parameters (which the model holds in `par`; log 1). -/
def Obligations.ResetValues : Prop :=
  (∀ p : Config.Params,
    let s := State.resetWith p
    s.ctlState = .idle ∧ s.attempt = 0#32 ∧ s.lastError = none ∧ s.rxBuf = [] ∧ s.req = none ∧ s.pres = none ∧
    s.connOpen = false ∧ s.deadlineExpired = false ∧ s.cancelPending = false ∧ s.stopReason = .none ∧ s.cfg = none ∧
    s.out = [] ∧ s.par = p) ∧
  State.reset = State.resetWith State.reset.par

/-- The invariant holds after reset, for all legal parameters and for the model's own (log 1). -/
def Obligations.InvAtReset : Prop :=
  (∀ p : Config.Params, p.legal = true → Inv (State.resetWith p)) ∧ Inv State.reset

/-- R51 and what the other rules add: from every good state a step completes, with a next state that is good again. In
particular no step of a good machine faults or is refused. -/
def Obligations.StepKeepsInv : Prop :=
  ∀ s : State, Inv s → ∃ t, step s = .next t ∧ Inv t

/-- R45: `out` is append-only. -/
def Obligations.OutAppendOnly : Prop :=
  ∀ s t : State, step s = .next t → ∃ words, t.out = s.out ++ words

/-- R113: a word of the host port that is not refused is taken at once, in every state, and gives exactly one response; a
refused one gives exactly one and is passed over (log 8); nothing else gives one; so what a step takes holds as many
host words as the step gives responses. -/
def Obligations.OneResponsePerCommand : Prop :=
  (∀ (s : State) (w : List Byte) (rest : List Arrival), s.pending = .host w :: rest →
    (refusedArrival s (.host w) = false → ∃ t r, step s = .next t ∧ t.resp = s.resp ++ [r] ∧ t.pending = rest) ∧
    (refusedArrival s (.host w) = true → ∃ r, step s = step { s with pending := rest, resp := s.resp ++ [r] })) ∧
  (∀ s t : State, (∀ w rest, s.pending ≠ .host w :: rest) → step s = .next t → t.resp = s.resp) ∧
  (∀ s t : State, step s = .next t → ∃ taken responses, s.pending = taken ++ t.pending ∧
    t.resp = s.resp ++ responses ∧ responses.length = (taken.filter isHostWord).length)

/-- R43: once written, `cfg` is read-only; only a CTL_START taken in IDLE, behind refused words at most, writes it. The parameters are never
written. -/
def Obligations.ConfigurationWrittenOnce : Prop :=
  ∀ s t : State, step s = .next t →
    (∀ c, s.cfg = some c → s.ctlState ≠ .idle → t.cfg = some c) ∧
    (t.cfg ≠ s.cfg → s.ctlState = .idle ∧ t.ctlState = .connecting ∧
      ∃ before w rest a b c d m u r p ep, s.pending = before ++ .host w :: rest ∧
        before.all (refusedArrival s) = true ∧ decodeHost w = .ok (.ctlStart a b c d m u r p ep)) ∧
    t.par = s.par

/-- R290, R41, R360: no step leaves STOPPED, changes the reason of the stop, writes `out` there, or clears the cancel
latch in any state. -/
def Obligations.StoppedIsTerminal : Prop :=
  ∀ s t : State, step s = .next t →
    (s.ctlState = .stopped → t.ctlState = .stopped ∧ t.stopReason = s.stopReason ∧ t.out = s.out) ∧
    (s.cancelPending = true → t.cancelPending = true)

/-- R286: a step ends in a cancelled stop only at a checkpoint: a CTL_CANCEL taken in IDLE, RETRY_WAIT or POLL_SLEEP
(behind refused words at most), or a latched cancellation where SUCCESS or a failure would enter a wait. -/
def Obligations.CancelOnlyAtCheckpoints : Prop :=
  ∀ s t : State, step s = .next t → s.ctlState ≠ .stopped → t.ctlState = .stopped → t.stopReason = .cancelled →
    ((s.ctlState = .idle ∨ s.ctlState = .retryWait ∨ s.ctlState = .pollSleep) ∧
      ∃ before rest, s.pending = before ++ .host [0x11#8] :: rest ∧ before.all (refusedArrival s) = true) ∨
    (s.cancelPending = true ∧
      (s.ctlState = .success ∨ s.ctlState = .retryableFailure ∨ s.ctlState = .fatalFailure))

/-- R294: a step that enters POLL_SLEEP has completed a cycle and emits exactly one report, just before the sleep timer;
a step emits at most one report, and only where a cycle ends. -/
def Obligations.OneReportPerCycle : Prop :=
  ∀ s t : State, step s = .next t → ∃ words, t.out = s.out ++ words ∧
    (s.ctlState ≠ .pollSleep → t.ctlState = .pollSleep →
      ∃ before report d, words = before ++ [report, .timer d] ∧ isReport report = true ∧
        ∀ w ∈ before, isReport w = false) ∧
    ((words.filter isReport).length ≤ 1) ∧
    ((words.filter isReport).length = 1 →
      (s.ctlState = .success ∨ s.ctlState = .retryableFailure ∨ s.ctlState = .fatalFailure) ∧
      (t.ctlState = .pollSleep ∨ (t.ctlState = .stopped ∧ t.stopReason = .cancelled)))

/-- R262, R278, R296 item 1: attempts that all hit the read timeout. With `k + 1` attempts left, the first of them
connecting, exactly `k + 1` attempts are made, with a retry delay between two attempts and none after the last, then
one failure report with MAX_ATTEMPTS attempts, then the poll sleep. (MAX_ATTEMPTS = 3 from the first attempt is R296's
case: `k` is 2.) -/
def Obligations.AttemptCeiling : Prop :=
  ∀ (k : Nat) (s : State) (c : Cfg), s.ctlState = .connecting → s.cfg = some c → cfgLegal c = true →
    s.attempt.toNat + k = c.maxAttempts.toNat → s.connOpen = false → s.deadlineExpired = false →
    s.cancelPending = false → s.pending = timeoutScript k →
    runSteps (5 * k + 4) s = .next { s with
      ctlState := .pollSleep, attempt := c.maxAttempts, lastError := some .receiveTimeout, rxBuf := [], req := none,
      pres := none, connOpen := false, deadlineExpired := false, pending := [],
      out := s.out ++ timeoutCycleWords c s.par.rxMax k }

/-- R264, R279, R296 item 2: a refused connection ends the cycle on whichever attempt it happens: no retry delay, one
failure report, then the poll sleep. -/
def Obligations.RefusalShortCircuit : Prop :=
  ∀ (s : State) (c : Cfg), s.ctlState = .connecting → s.cfg = some c → s.connOpen = false → s.cancelPending = false →
    s.pending = [bareEvent 0x21#8] →
    runSteps 2 s = .next { s with
      ctlState := .pollSleep, lastError := some .connectionRefused, rxBuf := [], req := none, pres := none,
      deadlineExpired := false, pending := [],
      out := s.out ++ [.reportFailure .connectionRefused s.attempt, .timer c.pollInterval] }

/-- R75: in RECEIVING of a good machine an accepted chunk never overflows the buffer. -/
def Obligations.ReceiveNeverOverflows : Prop :=
  ∀ (s : State) (d : List Byte), Inv s → s.ctlState = .receiving → d.length ≤ s.par.rxMax →
    (s.rxBuf ++ d).length ≤ 259 + s.par.rxMax ∧ (s.rxBuf ++ d).length ≤ s.par.rxBufCap

/-- R86, R154, R174, R226: CRC16, BUILD and PARSE touch no state the controller has, so taking one before or after an
internal step gives the same state. -/
def Obligations.PureCommandsCommute : Prop :=
  ∀ (i : Instr) (s t : State),
    ((∃ d, i = .crc16 d) ∨ (∃ a b c d, i = .build a b c d) ∨ (∃ f, i = .parse f)) → internalStep s = .next t →
    ∃ u v, exec i s = .next u ∧ internalStep u = .next v ∧ exec i t = .next v

/-- R113, R337: which host words are refused, in which state; that the answer is one of the three statuses and its byte;
and that a refused word changes nothing but its response and is no step: the step is what comes after it (where the
response stands, and that the same step goes on, is the model's choice; logs 7 and 8). -/
def Obligations.RefusedHostWords : Prop :=
  (∀ (s : State) (w : List Byte), (∃ r, hostStep w s = .refused r) ↔
    ((∃ why, decodeHost w = .reject why) ∨
     (s.ctlState ≠ .idle ∧ s.ctlState ≠ .stopped ∧
        (decodeHost w = .ok .raReset ∨ ∃ d, decodeHost w = .ok (.raFeed d))) ∨
     ((s.ctlState = .idle ∨ s.ctlState = .stopped) ∧ ∃ d, decodeHost w = .ok (.raFeed d) ∧ d ≠ [] ∧
        s.par.rxBufCap < s.rxBuf.length + d.length) ∨
     (s.ctlState ≠ .idle ∧ ∃ a b c d m u r p ep, decodeHost w = .ok (.ctlStart a b c d m u r p ep)))) ∧
  (∀ (s : State) (w : List Byte) (rest : List Arrival) (r : Refusal), s.pending = .host w :: rest →
    hostStep w { s with pending := rest } = .refused r →
    ∃ a, refusalResponse r = some a ∧ responseBytes a ∈ [[0x80#8], [0x81#8], [0x82#8]] ∧
      step s = step { s with pending := rest, resp := s.resp ++ [a] })

/-- R49: the outstanding operations, row by row; and in a good machine a program sees them through the events the block
accepts: exactly the answers to an outstanding operation (R291), the budget's only once, a chunk only up to RX_MAX. -/
def Obligations.OutstandingOperations : Prop :=
  (∀ s : State,
    (s.ctlState = .connecting → outstanding s = [.connect]) ∧
    (s.ctlState = .sending → ∀ op, op ∈ outstanding s ↔ op = .send ∨ (op = .receiveBudget ∧ s.connOpen = true)) ∧
    (s.ctlState = .receiving → outstanding s = [.receive, .receiveBudget]) ∧
    (s.ctlState = .retryWait → outstanding s = [.retryTimer]) ∧
    (s.ctlState = .pollSleep → outstanding s = [.pollTimer]) ∧
    (s.ctlState ∉ [.connecting, .sending, .receiving, .retryWait, .pollSleep] → outstanding s = [])) ∧
  (∀ (s : State) (i : Instr), Inv s →
    (accepts s i = true ↔ (∃ op ∈ outstanding s, answers op i = true) ∧
      (i = .evDeadline → s.deadlineExpired = false) ∧ ∀ d, i = .evRxData d → d.length ≤ s.par.rxMax))
end

