-- ==== Sys2Proof/Laws/Bytes.lean ====
section
/-! SUPPORT. Byte order and lengths: what the operand forms of Machine/Operands.lean take apart and put together, and
what a length field carries. -/

namespace Sys2Proof.Machine

@[simp] theorem hi8_be16 (hi lo : Byte) : hi8 (be16 hi lo) = hi := by
  apply BitVec.eq_of_getLsbD_eq
  intro i h
  simp only [hi8, be16, BitVec.getLsbD_extractLsb', BitVec.getLsbD_or, BitVec.getLsbD_shiftLeft,
    BitVec.getLsbD_setWidth]
  have e : 8 + i - 8 = i := by omega
  have a : 8 + i < 16 := by omega
  have b : ¬ 8 + i < 8 := by omega
  have c : i < 16 := by omega
  simp [e, a, c, h]

@[simp] theorem lo8_be16 (hi lo : Byte) : lo8 (be16 hi lo) = lo := by
  apply BitVec.eq_of_getLsbD_eq
  intro i h
  have a : i < 16 := by omega
  simp [lo8, be16, h, a]

@[simp] theorem be16_hi8_lo8 (v : Half) : be16 (hi8 v) (lo8 v) = v := by
  apply BitVec.eq_of_getLsbD_eq
  intro i h
  by_cases k : i < 8
  · simp [hi8, lo8, be16, h, k]
  · have e : 8 + (i - 8) = i := by omega
    have a : i - 8 < 8 := by omega
    simp [hi8, lo8, be16, h, k, e, a]

theorem le16_eq_be16 (lo hi : Byte) : le16 lo hi = be16 hi lo := rfl

@[simp] theorem le16_lo8_hi8 (v : Half) : le16 (lo8 v) (hi8 v) = v := by rw [le16_eq_be16, be16_hi8_lo8]

theorem be16_eq_iff (hi lo : Byte) (v : Half) : be16 hi lo = v ↔ hi = hi8 v ∧ lo = lo8 v := by
  constructor
  · rintro rfl; simp
  · rintro ⟨rfl, rfl⟩; simp

theorem bytes32_be32 (b3 b2 b1 b0 : Byte) : bytes32 (be32 b3 b2 b1 b0) = [b3, b2, b1, b0] := by
  simp only [bytes32, be32, List.cons.injEq, and_true]
  refine ⟨?_, ?_, ?_, ?_⟩ <;>
  · apply BitVec.eq_of_getLsbD_eq
    intro i h
    simp only [BitVec.getLsbD_extractLsb', BitVec.getLsbD_append, h, decide_true, Bool.true_and]
    repeat' split
    all_goals first | omega | (congr 1; omega)

theorem be32_of_bytes32 (v : Quad) :
    be32 (v.extractLsb' 24 8) (v.extractLsb' 16 8) (v.extractLsb' 8 8) (v.extractLsb' 0 8) = v := by
  apply BitVec.eq_of_getLsbD_eq
  intro i h
  simp only [be32, BitVec.getLsbD_append, BitVec.getLsbD_extractLsb']
  split
  · split
    · rw [show 0 + i = i by omega]; simp; omega
    · rw [show 8 + (i - 8) = i by omega]; simp; omega
  · split
    · rw [show 16 + (i - (8 + 8)) = i by omega]; simp; omega
    · rw [show 24 + (i - (8 + 8) - 8) = i by omega]; simp; omega

/-- Eight bits from place `n`, as a shift and a cut. -/
theorem extract8_eq {w : Nat} (v : BitVec w) (n : Nat) : v.extractLsb' n 8 = (v >>> n).setWidth 8 := by
  ext i h
  simp

@[simp] theorem bytes32_length (v : Quad) : (bytes32 v).length = 4 := rfl
@[simp] theorem bytes16_length (v : Half) : (bytes16 v).length = 2 := rfl

theorem len16_toNat (d : List Byte) (h : d.length ≤ 65535) : (len16 d).toNat = d.length := by
  simp [len16]; omega

/-- A length field that names the length of its bytes is the length field of those bytes. -/
theorem len16_of_toNat (d : List Byte) (n : Half) (h : d.length = n.toNat) : len16 d = n := by
  apply BitVec.eq_of_toNat_eq
  simp [len16, h]

theorem half_toNat_le (n : Half) : n.toNat ≤ 65535 := by
  have := n.isLt; omega

@[simp] theorem byteAt_nil (i : Nat) : byteAt [] i = 0#8 := by simp [byteAt]
@[simp] theorem byteAt_zero (b : Byte) (bs : List Byte) : byteAt (b :: bs) 0 = b := rfl
@[simp] theorem byteAt_succ (b : Byte) (bs : List Byte) (i : Nat) : byteAt (b :: bs) (i + 1) = byteAt bs i := by
  simp [byteAt]

theorem byteAt_append_left (a b : List Byte) (i : Nat) (h : i < a.length) : byteAt (a ++ b) i = byteAt a i := by
  simp [byteAt, List.getElem?_append_left h]

theorem byteAt_append_right (a b : List Byte) (i : Nat) : byteAt (a ++ b) (a.length + i) = byteAt b i := by
  simp [byteAt, List.getElem?_append_right]

/-- Half as many values as bytes, an odd byte dropped (spec 43_parser.md R227). -/
theorem halves_length : ∀ d : List Byte, (halves d).length = d.length / 2
  | [] => rfl
  | [_] => by simp [halves]
  | _ :: _ :: rest => by simp [halves, halves_length rest]; omega

/-- Value `i` is made of bytes `2i` and `2i + 1`, high byte first (spec 43_parser.md R227). -/
theorem halves_get : ∀ (d : List Byte) (i : Nat), 2 * i + 1 < d.length →
    (halves d)[i]? = some (be16 (byteAt d (2 * i)) (byteAt d (2 * i + 1)))
  | [], _, h => by simp at h
  | [_], _, h => by simp at h
  | _ :: _ :: _, 0, _ => by simp [halves]
  | a :: b :: rest, i + 1, h => by
    have := halves_get rest i (by simp at h; omega)
    simpa [halves, Nat.mul_add] using this

end Sys2Proof.Machine
end

