-- ==== Sys2Proof/Laws/Crc.lean ====
section
/-! SUPPORT. The CRC register over longer and shorter byte sequences (spec 40_crc.md R150, R151). -/

namespace Sys2Proof.Machine

@[simp] theorem crcFrom_nil (c : Half) : crcFrom c [] = c := rfl
@[simp] theorem crcFrom_cons (c : Half) (b : Byte) (s : List Byte) : crcFrom c (b :: s) = crcFrom (crcStep c b) s := rfl

theorem crcFrom_append (c : Half) (s t : List Byte) : crcFrom c (s ++ t) = crcFrom (crcFrom c s) t := by
  simp [crcFrom]

/-- No final XOR: the checksum is the register (R151). -/
theorem crc16_eq (s : List Byte) : crc16 s = crcFrom Config.crcInit s := by
  simp [crc16, Config.crcXorOut]

theorem crc16_append (s t : List Byte) : crc16 (s ++ t) = crcFrom (crc16 s) t := by
  rw [crc16_eq, crcFrom_append, crc16_eq]

@[simp] theorem crcBytes_length (s : List Byte) : (crcBytes s).length = 2 := rfl

/-- The two CRC bytes read back as the checksum (R152, spec 20_memory.md R74). -/
theorem le16_crcBytes (s : List Byte) : le16 (lo8 (crc16 s)) (hi8 (crc16 s)) = crc16 s := le16_lo8_hi8 _

end Sys2Proof.Machine
end

