-- ==== Sys2Proof/Laws/State.lean ====
section
/-! SUPPORT. One lemma per field per shared operation: what each operation of Machine/Ops.lean (and the two it shares
with the events and the parser) leaves in every field of State. -/

namespace Sys2Proof.Machine

/-- The output words of a teardown: the budget disarmed and the connection closed, if it was open (spec
44_controller.md R261, R290). -/
def closingWords (isOpen : Bool) : List OutWord := if isOpen then [.disarmDeadline, .close] else []

@[simp] theorem closingWords_true : closingWords true = [.disarmDeadline, .close] := rfl
@[simp] theorem closingWords_false : closingWords false = [] := rfl

@[simp] theorem emit_ctlState (w : OutWord) (s : State) :
    (emit w s).ctlState = s.ctlState := rfl
@[simp] theorem emit_attempt (w : OutWord) (s : State) :
    (emit w s).attempt = s.attempt := rfl
@[simp] theorem emit_lastError (w : OutWord) (s : State) :
    (emit w s).lastError = s.lastError := rfl
@[simp] theorem emit_rxBuf (w : OutWord) (s : State) :
    (emit w s).rxBuf = s.rxBuf := rfl
@[simp] theorem emit_req (w : OutWord) (s : State) :
    (emit w s).req = s.req := rfl
@[simp] theorem emit_pres (w : OutWord) (s : State) :
    (emit w s).pres = s.pres := rfl
@[simp] theorem emit_connOpen (w : OutWord) (s : State) :
    (emit w s).connOpen = s.connOpen := rfl
@[simp] theorem emit_deadlineExpired (w : OutWord) (s : State) :
    (emit w s).deadlineExpired = s.deadlineExpired := rfl
@[simp] theorem emit_cancelPending (w : OutWord) (s : State) :
    (emit w s).cancelPending = s.cancelPending := rfl
@[simp] theorem emit_stopReason (w : OutWord) (s : State) :
    (emit w s).stopReason = s.stopReason := rfl
@[simp] theorem emit_cfg (w : OutWord) (s : State) :
    (emit w s).cfg = s.cfg := rfl
@[simp] theorem emit_out (w : OutWord) (s : State) :
    (emit w s).out = s.out ++ [w] := rfl
@[simp] theorem emit_resp (w : OutWord) (s : State) :
    (emit w s).resp = s.resp := rfl
@[simp] theorem emit_pending (w : OutWord) (s : State) :
    (emit w s).pending = s.pending := rfl
@[simp] theorem emit_par (w : OutWord) (s : State) :
    (emit w s).par = s.par := rfl

@[simp] theorem respond_ctlState (r : HostResponse) (s : State) :
    (respond r s).ctlState = s.ctlState := rfl
@[simp] theorem respond_attempt (r : HostResponse) (s : State) :
    (respond r s).attempt = s.attempt := rfl
@[simp] theorem respond_lastError (r : HostResponse) (s : State) :
    (respond r s).lastError = s.lastError := rfl
@[simp] theorem respond_rxBuf (r : HostResponse) (s : State) :
    (respond r s).rxBuf = s.rxBuf := rfl
@[simp] theorem respond_req (r : HostResponse) (s : State) :
    (respond r s).req = s.req := rfl
@[simp] theorem respond_pres (r : HostResponse) (s : State) :
    (respond r s).pres = s.pres := rfl
@[simp] theorem respond_connOpen (r : HostResponse) (s : State) :
    (respond r s).connOpen = s.connOpen := rfl
@[simp] theorem respond_deadlineExpired (r : HostResponse) (s : State) :
    (respond r s).deadlineExpired = s.deadlineExpired := rfl
@[simp] theorem respond_cancelPending (r : HostResponse) (s : State) :
    (respond r s).cancelPending = s.cancelPending := rfl
@[simp] theorem respond_stopReason (r : HostResponse) (s : State) :
    (respond r s).stopReason = s.stopReason := rfl
@[simp] theorem respond_cfg (r : HostResponse) (s : State) :
    (respond r s).cfg = s.cfg := rfl
@[simp] theorem respond_out (r : HostResponse) (s : State) :
    (respond r s).out = s.out := rfl
@[simp] theorem respond_resp (r : HostResponse) (s : State) :
    (respond r s).resp = s.resp ++ [r] := rfl
@[simp] theorem respond_pending (r : HostResponse) (s : State) :
    (respond r s).pending = s.pending := rfl
@[simp] theorem respond_par (r : HostResponse) (s : State) :
    (respond r s).par = s.par := rfl

@[simp] theorem goto_ctlState (c : CtlState) (s : State) :
    (goto c s).ctlState = c := rfl
@[simp] theorem goto_attempt (c : CtlState) (s : State) :
    (goto c s).attempt = s.attempt := rfl
@[simp] theorem goto_lastError (c : CtlState) (s : State) :
    (goto c s).lastError = s.lastError := rfl
@[simp] theorem goto_rxBuf (c : CtlState) (s : State) :
    (goto c s).rxBuf = s.rxBuf := rfl
@[simp] theorem goto_req (c : CtlState) (s : State) :
    (goto c s).req = s.req := rfl
@[simp] theorem goto_pres (c : CtlState) (s : State) :
    (goto c s).pres = s.pres := rfl
@[simp] theorem goto_connOpen (c : CtlState) (s : State) :
    (goto c s).connOpen = s.connOpen := rfl
@[simp] theorem goto_deadlineExpired (c : CtlState) (s : State) :
    (goto c s).deadlineExpired = s.deadlineExpired := rfl
@[simp] theorem goto_cancelPending (c : CtlState) (s : State) :
    (goto c s).cancelPending = s.cancelPending := rfl
@[simp] theorem goto_stopReason (c : CtlState) (s : State) :
    (goto c s).stopReason = s.stopReason := rfl
@[simp] theorem goto_cfg (c : CtlState) (s : State) :
    (goto c s).cfg = s.cfg := rfl
@[simp] theorem goto_out (c : CtlState) (s : State) :
    (goto c s).out = s.out := rfl
@[simp] theorem goto_resp (c : CtlState) (s : State) :
    (goto c s).resp = s.resp := rfl
@[simp] theorem goto_pending (c : CtlState) (s : State) :
    (goto c s).pending = s.pending := rfl
@[simp] theorem goto_par (c : CtlState) (s : State) :
    (goto c s).par = s.par := rfl

@[simp] theorem appendRx_ctlState (d : List Byte) (s : State) :
    (appendRx d s).ctlState = s.ctlState := rfl
@[simp] theorem appendRx_attempt (d : List Byte) (s : State) :
    (appendRx d s).attempt = s.attempt := rfl
@[simp] theorem appendRx_lastError (d : List Byte) (s : State) :
    (appendRx d s).lastError = s.lastError := rfl
@[simp] theorem appendRx_rxBuf (d : List Byte) (s : State) :
    (appendRx d s).rxBuf = s.rxBuf ++ d := rfl
@[simp] theorem appendRx_req (d : List Byte) (s : State) :
    (appendRx d s).req = s.req := rfl
@[simp] theorem appendRx_pres (d : List Byte) (s : State) :
    (appendRx d s).pres = s.pres := rfl
@[simp] theorem appendRx_connOpen (d : List Byte) (s : State) :
    (appendRx d s).connOpen = s.connOpen := rfl
@[simp] theorem appendRx_deadlineExpired (d : List Byte) (s : State) :
    (appendRx d s).deadlineExpired = s.deadlineExpired := rfl
@[simp] theorem appendRx_cancelPending (d : List Byte) (s : State) :
    (appendRx d s).cancelPending = s.cancelPending := rfl
@[simp] theorem appendRx_stopReason (d : List Byte) (s : State) :
    (appendRx d s).stopReason = s.stopReason := rfl
@[simp] theorem appendRx_cfg (d : List Byte) (s : State) :
    (appendRx d s).cfg = s.cfg := rfl
@[simp] theorem appendRx_out (d : List Byte) (s : State) :
    (appendRx d s).out = s.out := rfl
@[simp] theorem appendRx_resp (d : List Byte) (s : State) :
    (appendRx d s).resp = s.resp := rfl
@[simp] theorem appendRx_pending (d : List Byte) (s : State) :
    (appendRx d s).pending = s.pending := rfl
@[simp] theorem appendRx_par (d : List Byte) (s : State) :
    (appendRx d s).par = s.par := rfl

@[simp] theorem clearRx_ctlState (s : State) :
    (clearRx s).ctlState = s.ctlState := rfl
@[simp] theorem clearRx_attempt (s : State) :
    (clearRx s).attempt = s.attempt := rfl
@[simp] theorem clearRx_lastError (s : State) :
    (clearRx s).lastError = s.lastError := rfl
@[simp] theorem clearRx_rxBuf (s : State) :
    (clearRx s).rxBuf = [] := rfl
@[simp] theorem clearRx_req (s : State) :
    (clearRx s).req = s.req := rfl
@[simp] theorem clearRx_pres (s : State) :
    (clearRx s).pres = s.pres := rfl
@[simp] theorem clearRx_connOpen (s : State) :
    (clearRx s).connOpen = s.connOpen := rfl
@[simp] theorem clearRx_deadlineExpired (s : State) :
    (clearRx s).deadlineExpired = s.deadlineExpired := rfl
@[simp] theorem clearRx_cancelPending (s : State) :
    (clearRx s).cancelPending = s.cancelPending := rfl
@[simp] theorem clearRx_stopReason (s : State) :
    (clearRx s).stopReason = s.stopReason := rfl
@[simp] theorem clearRx_cfg (s : State) :
    (clearRx s).cfg = s.cfg := rfl
@[simp] theorem clearRx_out (s : State) :
    (clearRx s).out = s.out := rfl
@[simp] theorem clearRx_resp (s : State) :
    (clearRx s).resp = s.resp := rfl
@[simp] theorem clearRx_pending (s : State) :
    (clearRx s).pending = s.pending := rfl
@[simp] theorem clearRx_par (s : State) :
    (clearRx s).par = s.par := rfl

@[simp] theorem clearAttempt_ctlState (s : State) :
    (clearAttempt s).ctlState = s.ctlState := rfl
@[simp] theorem clearAttempt_attempt (s : State) :
    (clearAttempt s).attempt = s.attempt := rfl
@[simp] theorem clearAttempt_lastError (s : State) :
    (clearAttempt s).lastError = s.lastError := rfl
@[simp] theorem clearAttempt_rxBuf (s : State) :
    (clearAttempt s).rxBuf = [] := rfl
@[simp] theorem clearAttempt_req (s : State) :
    (clearAttempt s).req = none := rfl
@[simp] theorem clearAttempt_pres (s : State) :
    (clearAttempt s).pres = none := rfl
@[simp] theorem clearAttempt_connOpen (s : State) :
    (clearAttempt s).connOpen = s.connOpen := rfl
@[simp] theorem clearAttempt_deadlineExpired (s : State) :
    (clearAttempt s).deadlineExpired = false := rfl
@[simp] theorem clearAttempt_cancelPending (s : State) :
    (clearAttempt s).cancelPending = s.cancelPending := rfl
@[simp] theorem clearAttempt_stopReason (s : State) :
    (clearAttempt s).stopReason = s.stopReason := rfl
@[simp] theorem clearAttempt_cfg (s : State) :
    (clearAttempt s).cfg = s.cfg := rfl
@[simp] theorem clearAttempt_out (s : State) :
    (clearAttempt s).out = s.out := rfl
@[simp] theorem clearAttempt_resp (s : State) :
    (clearAttempt s).resp = s.resp := rfl
@[simp] theorem clearAttempt_pending (s : State) :
    (clearAttempt s).pending = s.pending := rfl
@[simp] theorem clearAttempt_par (s : State) :
    (clearAttempt s).par = s.par := rfl

@[simp] theorem closeConnection_ctlState (s : State) :
    (closeConnection s).ctlState = s.ctlState := by
  cases h : s.connOpen <;> simp [closeConnection, h]
@[simp] theorem closeConnection_attempt (s : State) :
    (closeConnection s).attempt = s.attempt := by
  cases h : s.connOpen <;> simp [closeConnection, h]
@[simp] theorem closeConnection_lastError (s : State) :
    (closeConnection s).lastError = s.lastError := by
  cases h : s.connOpen <;> simp [closeConnection, h]
@[simp] theorem closeConnection_rxBuf (s : State) :
    (closeConnection s).rxBuf = s.rxBuf := by
  cases h : s.connOpen <;> simp [closeConnection, h]
@[simp] theorem closeConnection_req (s : State) :
    (closeConnection s).req = s.req := by
  cases h : s.connOpen <;> simp [closeConnection, h]
@[simp] theorem closeConnection_pres (s : State) :
    (closeConnection s).pres = s.pres := by
  cases h : s.connOpen <;> simp [closeConnection, h]
@[simp] theorem closeConnection_connOpen (s : State) :
    (closeConnection s).connOpen = false := by
  cases h : s.connOpen <;> simp [closeConnection, h]
@[simp] theorem closeConnection_deadlineExpired (s : State) :
    (closeConnection s).deadlineExpired = s.deadlineExpired := by
  cases h : s.connOpen <;> simp [closeConnection, h]
@[simp] theorem closeConnection_cancelPending (s : State) :
    (closeConnection s).cancelPending = s.cancelPending := by
  cases h : s.connOpen <;> simp [closeConnection, h]
@[simp] theorem closeConnection_stopReason (s : State) :
    (closeConnection s).stopReason = s.stopReason := by
  cases h : s.connOpen <;> simp [closeConnection, h]
@[simp] theorem closeConnection_cfg (s : State) :
    (closeConnection s).cfg = s.cfg := by
  cases h : s.connOpen <;> simp [closeConnection, h]
@[simp] theorem closeConnection_out (s : State) :
    (closeConnection s).out = s.out ++ closingWords s.connOpen := by
  cases h : s.connOpen <;> simp [closeConnection, closingWords, h]
@[simp] theorem closeConnection_resp (s : State) :
    (closeConnection s).resp = s.resp := by
  cases h : s.connOpen <;> simp [closeConnection, h]
@[simp] theorem closeConnection_pending (s : State) :
    (closeConnection s).pending = s.pending := by
  cases h : s.connOpen <;> simp [closeConnection, h]
@[simp] theorem closeConnection_par (s : State) :
    (closeConnection s).par = s.par := by
  cases h : s.connOpen <;> simp [closeConnection, h]

@[simp] theorem endAttempt_ctlState (s : State) :
    (endAttempt s).ctlState = s.ctlState := by
  simp [endAttempt]
@[simp] theorem endAttempt_attempt (s : State) :
    (endAttempt s).attempt = s.attempt := by
  simp [endAttempt]
@[simp] theorem endAttempt_lastError (s : State) :
    (endAttempt s).lastError = s.lastError := by
  simp [endAttempt]
@[simp] theorem endAttempt_rxBuf (s : State) :
    (endAttempt s).rxBuf = [] := by
  simp [endAttempt]
@[simp] theorem endAttempt_req (s : State) :
    (endAttempt s).req = none := by
  simp [endAttempt]
@[simp] theorem endAttempt_pres (s : State) :
    (endAttempt s).pres = none := by
  simp [endAttempt]
@[simp] theorem endAttempt_connOpen (s : State) :
    (endAttempt s).connOpen = false := by
  simp [endAttempt]
@[simp] theorem endAttempt_deadlineExpired (s : State) :
    (endAttempt s).deadlineExpired = false := by
  simp [endAttempt]
@[simp] theorem endAttempt_cancelPending (s : State) :
    (endAttempt s).cancelPending = s.cancelPending := by
  simp [endAttempt]
@[simp] theorem endAttempt_stopReason (s : State) :
    (endAttempt s).stopReason = s.stopReason := by
  simp [endAttempt]
@[simp] theorem endAttempt_cfg (s : State) :
    (endAttempt s).cfg = s.cfg := by
  simp [endAttempt]
@[simp] theorem endAttempt_out (s : State) :
    (endAttempt s).out = s.out ++ closingWords s.connOpen := by
  simp [endAttempt]
@[simp] theorem endAttempt_resp (s : State) :
    (endAttempt s).resp = s.resp := by
  simp [endAttempt]
@[simp] theorem endAttempt_pending (s : State) :
    (endAttempt s).pending = s.pending := by
  simp [endAttempt]
@[simp] theorem endAttempt_par (s : State) :
    (endAttempt s).par = s.par := by
  simp [endAttempt]

@[simp] theorem stop_ctlState (r : StopReason) (s : State) :
    (stop r s).ctlState = .stopped := by
  simp [stop]
@[simp] theorem stop_attempt (r : StopReason) (s : State) :
    (stop r s).attempt = s.attempt := by
  simp [stop]
@[simp] theorem stop_lastError (r : StopReason) (s : State) :
    (stop r s).lastError = s.lastError := by
  simp [stop]
@[simp] theorem stop_rxBuf (r : StopReason) (s : State) :
    (stop r s).rxBuf = [] := by
  simp [stop]
@[simp] theorem stop_req (r : StopReason) (s : State) :
    (stop r s).req = none := by
  simp [stop]
@[simp] theorem stop_pres (r : StopReason) (s : State) :
    (stop r s).pres = none := by
  simp [stop]
@[simp] theorem stop_connOpen (r : StopReason) (s : State) :
    (stop r s).connOpen = false := by
  simp [stop]
@[simp] theorem stop_deadlineExpired (r : StopReason) (s : State) :
    (stop r s).deadlineExpired = false := by
  simp [stop]
@[simp] theorem stop_cancelPending (r : StopReason) (s : State) :
    (stop r s).cancelPending = s.cancelPending := by
  simp [stop]
@[simp] theorem stop_stopReason (r : StopReason) (s : State) :
    (stop r s).stopReason = r := by
  simp [stop]
@[simp] theorem stop_cfg (r : StopReason) (s : State) :
    (stop r s).cfg = s.cfg := by
  simp [stop]
@[simp] theorem stop_out (r : StopReason) (s : State) :
    (stop r s).out = s.out ++ closingWords s.connOpen ++ [.stopped r (stopKind r)] := by
  simp [stop]
@[simp] theorem stop_resp (r : StopReason) (s : State) :
    (stop r s).resp = s.resp := by
  simp [stop]
@[simp] theorem stop_pending (r : StopReason) (s : State) :
    (stop r s).pending = s.pending := by
  simp [stop]
@[simp] theorem stop_par (r : StopReason) (s : State) :
    (stop r s).par = s.par := by
  simp [stop]

@[simp] theorem beginAttempt_ctlState (c : Cfg) (s : State) :
    (beginAttempt c s).ctlState = .connecting := rfl
@[simp] theorem beginAttempt_attempt (c : Cfg) (s : State) :
    (beginAttempt c s).attempt = s.attempt + 1#32 := rfl
@[simp] theorem beginAttempt_lastError (c : Cfg) (s : State) :
    (beginAttempt c s).lastError = s.lastError := rfl
@[simp] theorem beginAttempt_rxBuf (c : Cfg) (s : State) :
    (beginAttempt c s).rxBuf = [] := rfl
@[simp] theorem beginAttempt_req (c : Cfg) (s : State) :
    (beginAttempt c s).req = none := rfl
@[simp] theorem beginAttempt_pres (c : Cfg) (s : State) :
    (beginAttempt c s).pres = none := rfl
@[simp] theorem beginAttempt_connOpen (c : Cfg) (s : State) :
    (beginAttempt c s).connOpen = s.connOpen := rfl
@[simp] theorem beginAttempt_deadlineExpired (c : Cfg) (s : State) :
    (beginAttempt c s).deadlineExpired = false := rfl
@[simp] theorem beginAttempt_cancelPending (c : Cfg) (s : State) :
    (beginAttempt c s).cancelPending = s.cancelPending := rfl
@[simp] theorem beginAttempt_stopReason (c : Cfg) (s : State) :
    (beginAttempt c s).stopReason = s.stopReason := rfl
@[simp] theorem beginAttempt_cfg (c : Cfg) (s : State) :
    (beginAttempt c s).cfg = s.cfg := rfl
@[simp] theorem beginAttempt_out (c : Cfg) (s : State) :
    (beginAttempt c s).out = s.out ++ [.connect c.timeout c.endpoint] := rfl
@[simp] theorem beginAttempt_resp (c : Cfg) (s : State) :
    (beginAttempt c s).resp = s.resp := rfl
@[simp] theorem beginAttempt_pending (c : Cfg) (s : State) :
    (beginAttempt c s).pending = s.pending := rfl
@[simp] theorem beginAttempt_par (c : Cfg) (s : State) :
    (beginAttempt c s).par = s.par := rfl

@[simp] theorem resumeAttempt_ctlState (c : Cfg) (s : State) :
    (resumeAttempt c s).ctlState = .connecting := rfl
@[simp] theorem resumeAttempt_attempt (c : Cfg) (s : State) :
    (resumeAttempt c s).attempt = s.attempt + 1#32 := rfl
@[simp] theorem resumeAttempt_lastError (c : Cfg) (s : State) :
    (resumeAttempt c s).lastError = s.lastError := rfl
@[simp] theorem resumeAttempt_rxBuf (c : Cfg) (s : State) :
    (resumeAttempt c s).rxBuf = [] := rfl
@[simp] theorem resumeAttempt_req (c : Cfg) (s : State) :
    (resumeAttempt c s).req = none := rfl
@[simp] theorem resumeAttempt_pres (c : Cfg) (s : State) :
    (resumeAttempt c s).pres = none := rfl
@[simp] theorem resumeAttempt_connOpen (c : Cfg) (s : State) :
    (resumeAttempt c s).connOpen = s.connOpen := rfl
@[simp] theorem resumeAttempt_deadlineExpired (c : Cfg) (s : State) :
    (resumeAttempt c s).deadlineExpired = false := rfl
@[simp] theorem resumeAttempt_cancelPending (c : Cfg) (s : State) :
    (resumeAttempt c s).cancelPending = s.cancelPending := rfl
@[simp] theorem resumeAttempt_stopReason (c : Cfg) (s : State) :
    (resumeAttempt c s).stopReason = s.stopReason := rfl
@[simp] theorem resumeAttempt_cfg (c : Cfg) (s : State) :
    (resumeAttempt c s).cfg = s.cfg := rfl
@[simp] theorem resumeAttempt_out (c : Cfg) (s : State) :
    (resumeAttempt c s).out = s.out ++ [.connect c.timeout c.endpoint] := rfl
@[simp] theorem resumeAttempt_resp (c : Cfg) (s : State) :
    (resumeAttempt c s).resp = s.resp := rfl
@[simp] theorem resumeAttempt_pending (c : Cfg) (s : State) :
    (resumeAttempt c s).pending = s.pending := rfl
@[simp] theorem resumeAttempt_par (c : Cfg) (s : State) :
    (resumeAttempt c s).par = s.par := rfl

@[simp] theorem beginCycle_ctlState (c : Cfg) (s : State) :
    (beginCycle c s).ctlState = .connecting := rfl
@[simp] theorem beginCycle_attempt (c : Cfg) (s : State) :
    (beginCycle c s).attempt = 1#32 := rfl
@[simp] theorem beginCycle_lastError (c : Cfg) (s : State) :
    (beginCycle c s).lastError = none := rfl
@[simp] theorem beginCycle_rxBuf (c : Cfg) (s : State) :
    (beginCycle c s).rxBuf = [] := rfl
@[simp] theorem beginCycle_req (c : Cfg) (s : State) :
    (beginCycle c s).req = none := rfl
@[simp] theorem beginCycle_pres (c : Cfg) (s : State) :
    (beginCycle c s).pres = none := rfl
@[simp] theorem beginCycle_connOpen (c : Cfg) (s : State) :
    (beginCycle c s).connOpen = s.connOpen := rfl
@[simp] theorem beginCycle_deadlineExpired (c : Cfg) (s : State) :
    (beginCycle c s).deadlineExpired = false := rfl
@[simp] theorem beginCycle_cancelPending (c : Cfg) (s : State) :
    (beginCycle c s).cancelPending = s.cancelPending := rfl
@[simp] theorem beginCycle_stopReason (c : Cfg) (s : State) :
    (beginCycle c s).stopReason = s.stopReason := rfl
@[simp] theorem beginCycle_cfg (c : Cfg) (s : State) :
    (beginCycle c s).cfg = s.cfg := rfl
@[simp] theorem beginCycle_out (c : Cfg) (s : State) :
    (beginCycle c s).out = s.out ++ [.connect c.timeout c.endpoint] := rfl
@[simp] theorem beginCycle_resp (c : Cfg) (s : State) :
    (beginCycle c s).resp = s.resp := rfl
@[simp] theorem beginCycle_pending (c : Cfg) (s : State) :
    (beginCycle c s).pending = s.pending := rfl
@[simp] theorem beginCycle_par (c : Cfg) (s : State) :
    (beginCycle c s).par = s.par := rfl

@[simp] theorem openAndSend_ctlState (c : Cfg) (f : List Byte) (s : State) :
    (openAndSend c f s).ctlState = .sending := rfl
@[simp] theorem openAndSend_attempt (c : Cfg) (f : List Byte) (s : State) :
    (openAndSend c f s).attempt = s.attempt := rfl
@[simp] theorem openAndSend_lastError (c : Cfg) (f : List Byte) (s : State) :
    (openAndSend c f s).lastError = s.lastError := rfl
@[simp] theorem openAndSend_rxBuf (c : Cfg) (f : List Byte) (s : State) :
    (openAndSend c f s).rxBuf = s.rxBuf := rfl
@[simp] theorem openAndSend_req (c : Cfg) (f : List Byte) (s : State) :
    (openAndSend c f s).req = some f := rfl
@[simp] theorem openAndSend_pres (c : Cfg) (f : List Byte) (s : State) :
    (openAndSend c f s).pres = s.pres := rfl
@[simp] theorem openAndSend_connOpen (c : Cfg) (f : List Byte) (s : State) :
    (openAndSend c f s).connOpen = true := rfl
@[simp] theorem openAndSend_deadlineExpired (c : Cfg) (f : List Byte) (s : State) :
    (openAndSend c f s).deadlineExpired = s.deadlineExpired := rfl
@[simp] theorem openAndSend_cancelPending (c : Cfg) (f : List Byte) (s : State) :
    (openAndSend c f s).cancelPending = s.cancelPending := rfl
@[simp] theorem openAndSend_stopReason (c : Cfg) (f : List Byte) (s : State) :
    (openAndSend c f s).stopReason = s.stopReason := rfl
@[simp] theorem openAndSend_cfg (c : Cfg) (f : List Byte) (s : State) :
    (openAndSend c f s).cfg = s.cfg := rfl
@[simp] theorem openAndSend_out (c : Cfg) (f : List Byte) (s : State) :
    (openAndSend c f s).out = s.out ++ [.armDeadline c.timeout] ++ [.send f] := rfl
@[simp] theorem openAndSend_resp (c : Cfg) (f : List Byte) (s : State) :
    (openAndSend c f s).resp = s.resp := rfl
@[simp] theorem openAndSend_pending (c : Cfg) (f : List Byte) (s : State) :
    (openAndSend c f s).pending = s.pending := rfl
@[simp] theorem openAndSend_par (c : Cfg) (f : List Byte) (s : State) :
    (openAndSend c f s).par = s.par := rfl

@[simp] theorem wait_ctlState (i : Instr) (s : State) :
    (wait i s).ctlState = s.ctlState := rfl
@[simp] theorem wait_attempt (i : Instr) (s : State) :
    (wait i s).attempt = s.attempt := rfl
@[simp] theorem wait_lastError (i : Instr) (s : State) :
    (wait i s).lastError = s.lastError := rfl
@[simp] theorem wait_rxBuf (i : Instr) (s : State) :
    (wait i s).rxBuf = s.rxBuf := rfl
@[simp] theorem wait_req (i : Instr) (s : State) :
    (wait i s).req = s.req := rfl
@[simp] theorem wait_pres (i : Instr) (s : State) :
    (wait i s).pres = s.pres := rfl
@[simp] theorem wait_connOpen (i : Instr) (s : State) :
    (wait i s).connOpen = s.connOpen := rfl
@[simp] theorem wait_deadlineExpired (i : Instr) (s : State) :
    (wait i s).deadlineExpired = s.deadlineExpired := rfl
@[simp] theorem wait_cancelPending (i : Instr) (s : State) :
    (wait i s).cancelPending = s.cancelPending := rfl
@[simp] theorem wait_stopReason (i : Instr) (s : State) :
    (wait i s).stopReason = s.stopReason := rfl
@[simp] theorem wait_cfg (i : Instr) (s : State) :
    (wait i s).cfg = s.cfg := rfl
@[simp] theorem wait_out (i : Instr) (s : State) :
    (wait i s).out = s.out := rfl
@[simp] theorem wait_resp (i : Instr) (s : State) :
    (wait i s).resp = s.resp := rfl
@[simp] theorem wait_pending (i : Instr) (s : State) :
    (wait i s).pending = .event (encode i) :: s.pending := rfl
@[simp] theorem wait_par (i : Instr) (s : State) :
    (wait i s).par = s.par := rfl

@[simp] theorem askReceive_ctlState (s : State) :
    (askReceive s).ctlState = s.ctlState := rfl
@[simp] theorem askReceive_attempt (s : State) :
    (askReceive s).attempt = s.attempt := rfl
@[simp] theorem askReceive_lastError (s : State) :
    (askReceive s).lastError = s.lastError := rfl
@[simp] theorem askReceive_rxBuf (s : State) :
    (askReceive s).rxBuf = s.rxBuf := rfl
@[simp] theorem askReceive_req (s : State) :
    (askReceive s).req = s.req := rfl
@[simp] theorem askReceive_pres (s : State) :
    (askReceive s).pres = s.pres := rfl
@[simp] theorem askReceive_connOpen (s : State) :
    (askReceive s).connOpen = s.connOpen := rfl
@[simp] theorem askReceive_deadlineExpired (s : State) :
    (askReceive s).deadlineExpired = s.deadlineExpired := rfl
@[simp] theorem askReceive_cancelPending (s : State) :
    (askReceive s).cancelPending = s.cancelPending := rfl
@[simp] theorem askReceive_stopReason (s : State) :
    (askReceive s).stopReason = s.stopReason := rfl
@[simp] theorem askReceive_cfg (s : State) :
    (askReceive s).cfg = s.cfg := rfl
@[simp] theorem askReceive_out (s : State) :
    (askReceive s).out = s.out ++ [.receive (BitVec.ofNat 16 s.par.rxMax)] := rfl
@[simp] theorem askReceive_resp (s : State) :
    (askReceive s).resp = s.resp := rfl
@[simp] theorem askReceive_pending (s : State) :
    (askReceive s).pending = s.pending := rfl
@[simp] theorem askReceive_par (s : State) :
    (askReceive s).par = s.par := rfl

@[simp] theorem parseFrame_ctlState (f : List Byte) (s : State) :
    (parseFrame f s).ctlState = .interpreting := rfl
@[simp] theorem parseFrame_attempt (f : List Byte) (s : State) :
    (parseFrame f s).attempt = s.attempt := rfl
@[simp] theorem parseFrame_lastError (f : List Byte) (s : State) :
    (parseFrame f s).lastError = s.lastError := rfl
@[simp] theorem parseFrame_rxBuf (f : List Byte) (s : State) :
    (parseFrame f s).rxBuf = [] := rfl
@[simp] theorem parseFrame_req (f : List Byte) (s : State) :
    (parseFrame f s).req = s.req := rfl
@[simp] theorem parseFrame_pres (f : List Byte) (s : State) :
    (parseFrame f s).pres = some (parse f) := rfl
@[simp] theorem parseFrame_connOpen (f : List Byte) (s : State) :
    (parseFrame f s).connOpen = s.connOpen := rfl
@[simp] theorem parseFrame_deadlineExpired (f : List Byte) (s : State) :
    (parseFrame f s).deadlineExpired = s.deadlineExpired := rfl
@[simp] theorem parseFrame_cancelPending (f : List Byte) (s : State) :
    (parseFrame f s).cancelPending = s.cancelPending := rfl
@[simp] theorem parseFrame_stopReason (f : List Byte) (s : State) :
    (parseFrame f s).stopReason = s.stopReason := rfl
@[simp] theorem parseFrame_cfg (f : List Byte) (s : State) :
    (parseFrame f s).cfg = s.cfg := rfl
@[simp] theorem parseFrame_out (f : List Byte) (s : State) :
    (parseFrame f s).out = s.out := rfl
@[simp] theorem parseFrame_resp (f : List Byte) (s : State) :
    (parseFrame f s).resp = s.resp := rfl
@[simp] theorem parseFrame_pending (f : List Byte) (s : State) :
    (parseFrame f s).pending = s.pending := rfl
@[simp] theorem parseFrame_par (f : List Byte) (s : State) :
    (parseFrame f s).par = s.par := rfl

end Sys2Proof.Machine
end

