-- ==== Sys2Proof/Laws/Ops.lean ====
section
/-! SUPPORT. For each shared operation, one lemma that says once everything it can do; callers cite these and do not
unfold the operation. -/

namespace Sys2Proof.Machine

/-! ### Reading `cfg` -/

theorem withCfg_some {s : State} {c : Cfg} (h : s.cfg = some c) (k : Cfg → Answer) : withCfg s k = k c := by
  simp [withCfg, h]

theorem withCfg_next {s t : State} {k : Cfg → Answer} (h : withCfg s k = .next t) :
    ∃ c, s.cfg = some c ∧ k c = .next t := by
  unfold withCfg at h
  split at h
  · cases h
  · exact ⟨_, ‹_›, h⟩

/-! ### Taking events -/

theorem takeEvent_waits {i : Instr} {s : State} {e : Answer} (h : transient s.ctlState = true) :
    takeEvent i s e = .next (wait i s) := by simp [takeEvent, h]

theorem takeEvent_accepted {i : Instr} {s : State} {e : Answer} (h : transient s.ctlState = false)
    (a : accepts s i = true) : takeEvent i s e = e := by simp [takeEvent, h, a]

theorem takeEvent_unexpected {i : Instr} {s : State} {e : Answer} (h : transient s.ctlState = false)
    (a : accepts s i = false) : takeEvent i s e = .next (unexpected s) := by simp [takeEvent, h, a]

/-- Everything an event can do: wait, have its effect, or be unexpected. -/
theorem takeEvent_next {i : Instr} {s t : State} {e : Answer} (h : takeEvent i s e = .next t) :
    (transient s.ctlState = true ∧ t = wait i s) ∨
    (transient s.ctlState = false ∧ accepts s i = true ∧ e = .next t) ∨
    (transient s.ctlState = false ∧ accepts s i = false ∧ t = unexpected s) := by
  cases ht : transient s.ctlState
  · cases ha : accepts s i
    · rw [takeEvent_unexpected ht ha] at h
      cases h; exact .inr (.inr ⟨rfl, rfl, rfl⟩)
    · rw [takeEvent_accepted ht ha] at h
      exact .inr (.inl ⟨rfl, rfl, h⟩)
  · rw [takeEvent_waits ht] at h
    cases h; exact .inl ⟨rfl, rfl⟩

theorem unexpected_stopped {s : State} (h : s.ctlState = .stopped) : unexpected s = s := by simp [unexpected, h]

theorem unexpected_running {s : State} (h : s.ctlState ≠ .stopped) : unexpected s = stop .unexpectedEvent s := by
  simp [unexpected, h]

/-- An instruction of another port than the event port is no event, so no state accepts it. -/
theorem accepts_event {s : State} {i : Instr} (h : accepts s i = true) : i.port = .event := by
  cases i <;> simp [accepts, Instr.port] at h ⊢

/-- A state that accepts an event is neither transient nor STOPPED nor IDLE (spec 44_controller.md R291). -/
theorem accepts_waiting {s : State} {i : Instr} (h : accepts s i = true) :
    s.ctlState ∈ [CtlState.connecting, .sending, .receiving, .retryWait, .pollSleep] := by
  cases i <;> simp [accepts] at h <;> simp [h]; all_goals rcases h with h | h <;> simp_all

/-! ### Failures -/

theorem raiseError_retryable {e : Err} (s : State) (h : errClass e = .retryable) :
    raiseError e s = { s with lastError := some e, ctlState := .retryableFailure } := by simp [raiseError, h, goto]

theorem raiseError_fatal {e : Err} (s : State) (h : errClass e = .fatal) :
    raiseError e s = { s with lastError := some e, ctlState := .fatalFailure } := by simp [raiseError, h, goto]

theorem raiseError_construction {e : Err} (s : State) (h : errClass e = .constructionTime) :
    raiseError e s = stop .misconfigured s := by simp [raiseError, h]

/-- The parser raises retryable errors only (spec 60_exceptions.md R321). -/
theorem parse_err_retryable {f : List Byte} {e : Err} (h : parse f = .err e) : errClass e = .retryable := by
  unfold parse at h
  repeat' split at h
  all_goals cases h
  all_goals rfl

/-! ### Waits -/

theorem enterRetryWait_cases (c : Cfg) (s : State) :
    (s.cancelPending = true ∧ enterRetryWait c s = stop .cancelled s) ∨
    (s.cancelPending = false ∧ enterRetryWait c s = goto .retryWait (emit (.timer c.retryDelay) s)) := by
  cases h : s.cancelPending <;> simp [enterRetryWait, h]

theorem enterPollSleep_cases (c : Cfg) (s : State) :
    (s.cancelPending = true ∧ enterPollSleep c s = stop .cancelled s) ∨
    (s.cancelPending = false ∧ enterPollSleep c s = goto .pollSleep (emit (.timer c.pollInterval) s)) := by
  cases h : s.cancelPending <;> simp [enterPollSleep, h]

/-! ### The receive buffer -/

/-- A chunk lands after what was there, in order (spec 20_memory.md R71). -/
theorem readRx_appendRx (d : List Byte) (s : State) (i : Nat) :
    readRx (appendRx d s) i = if i < s.rxBuf.length then readRx s i else d[i - s.rxBuf.length]? := by
  simp [readRx, List.getElem?_append]

/-- What `ra_complete` says, as a proposition (spec 42_reassembler.md R192). -/
theorem raComplete_iff (b : List Byte) :
    raComplete b = true ↔ 5 ≤ b.length ∧ (byteAt b 2).toNat + 5 ≤ b.length := by
  have h5 : Config.raMin = 5 := rfl
  simp only [raComplete, h5, Bool.and_eq_true, decide_eq_true_eq]
  omega

/-- Appending more never makes a complete buffer incomplete (spec 42_reassembler.md R192). -/
theorem raComplete_append {b : List Byte} (c : List Byte) (h : raComplete b = true) : raComplete (b ++ c) = true := by
  rw [raComplete_iff] at h ⊢
  rw [List.length_append]
  rw [byteAt_append_left b c 2 (by omega)]
  omega

/-- An incomplete buffer has at most 259 bytes (spec 20_memory.md R75). -/
theorem incomplete_length {b : List Byte} (h : raComplete b = false) : b.length ≤ 259 := by
  by_contra hl
  have hb := (byteAt b 2).isLt
  have := (raComplete_iff b).2 ⟨by omega, by omega⟩
  rw [h] at this
  exact absurd this (by decide)

/-- A complete buffer hands at least five bytes to the parser, in both modes (spec 90_conflicts.md C4). -/
theorem raExtract_length {b : List Byte} (m : Config.ExtractMode) (h : raComplete b = true) :
    5 ≤ (raExtract m b).length := by
  rw [raComplete_iff] at h
  cases m <;> simp [raExtract] <;> omega

/-! ### Range checks, as propositions -/

theorem validReq_iff (slave fc start count : Int) :
    validReq slave fc start count = true ↔
      0 ≤ slave ∧ slave ≤ 247 ∧ (fc = 3 ∨ fc = 4) ∧ 0 ≤ start ∧ start ≤ 65535 ∧ 1 ≤ count ∧ count ≤ 65535 := by
  have ha : Config.addrMax = 247 := rfl
  simp only [validReq, ha, Bool.and_eq_true, Bool.or_eq_true, decide_eq_true_eq]
  omega

theorem validCfg_iff (slave fc start count maxAttempts : Int) :
    validCfg slave fc start count maxAttempts = true ↔
      (0 ≤ slave ∧ slave ≤ 247 ∧ (fc = 3 ∨ fc = 4) ∧ 0 ≤ start ∧ start ≤ 65535 ∧ 1 ≤ count ∧ count ≤ 65535) ∧
        1 ≤ maxAttempts := by
  simp only [validCfg, Bool.and_eq_true, validReq_iff, decide_eq_true_eq]

theorem cfgLegal_iff (c : Cfg) :
    Safety.cfgLegal c = true ↔ c.slave.toNat ≤ 247 ∧ (c.func = 0x03#8 ∨ c.func = 0x04#8) ∧ 1 ≤ c.count.toNat ∧
      1 ≤ c.maxAttempts.toNat ∧ c.maxAttempts.toNat ≤ 2147483647 ∧ c.endpoint.length ≤ 65535 := by
  simp only [Safety.cfgLegal, Bool.and_eq_true, Bool.or_eq_true, decide_eq_true_eq, and_assoc]

theorem params_legal_iff (p : Config.Params) :
    p.legal = true ↔ 1 ≤ p.rxMax ∧ p.rxMax ≤ 65535 ∧ 259 + p.rxMax ≤ p.rxBufCap := by
  simp only [Config.Params.legal, Bool.and_eq_true, decide_eq_true_eq, and_assoc]

theorem attemptsRemain_iff (c : Cfg) (s : State) :
    attemptsRemain c s = true ↔ s.attempt.toNat < c.maxAttempts.toNat := by
  simp only [attemptsRemain, decide_eq_true_eq]

/-! ### Requests and responses -/

/-- `build` of a legal configuration is the frame of its fields (spec 44_controller.md R257, 41_frame_builder.md R171). -/
theorem buildCfg_legal {c : Cfg} (h : Safety.cfgLegal c = true) :
    buildCfg c = .ok (requestBody c.slave c.func c.start c.count ++ crcBytes (requestBody c.slave c.func c.start c.count)) := by
  obtain ⟨h1, h2, h3, -⟩ := (cfgLegal_iff c).1 h
  have hs := c.start.isLt
  have hc := c.count.isLt
  have hf : c.func.toNat = 3 ∨ c.func.toNat = 4 := by rcases h2 with h | h <;> simp [h]
  have hv : validReq (Int.ofNat c.slave.toNat) (Int.ofNat c.func.toNat) (Int.ofNat c.start.toNat)
      (Int.ofNat c.count.toNat) = true := by
    rw [validReq_iff]
    simp only [Int.ofNat_eq_natCast]
    omega
  simp only [buildCfg, build, hv, if_true]
  simp

/-- A decoded response frame is the bytes it was read from. -/
theorem decodeResponse_ok {f : List Byte} {i : Instr} (h : decodeResponse f = .ok i) :
    encode i = f ∧ ((∃ a b d lo hi, i = .rspReadHoldingRegisters a b d lo hi) ∨
      (∃ a b d lo hi, i = .rspReadInputRegisters a b d lo hi)) := by
  unfold decodeResponse at h
  split at h
  · split at h
    · split at h
      · rename_i slave fc bc rest hfc _ lo hi hd
        have hr : rest = rest.take bc.toNat ++ [lo, hi] := by rw [← hd, List.take_append_drop]
        split at h
        · rename_i h3
          cases h
          exact ⟨by subst h3; simp only [encode, responseFrame]; conv_rhs => rw [hr]
                    simp, .inl ⟨_, _, _, _, _, rfl⟩⟩
        · rename_i h3
          cases h
          have h4 : fc = 0x04#8 := hfc.resolve_left h3
          exact ⟨by subst h4; simp only [encode, responseFrame]; conv_rhs => rw [hr]
                    simp, .inr ⟨_, _, _, _, _, rfl⟩⟩
      · cases h
    · cases h
  · cases h

/-- PARSING is one parse, whether or not the buffer holds a response frame of the table (spec 44_controller.md R274). -/
theorem parsingStep_eq {s : State} (h : s.ctlState = .parsing) :
    parsingStep s = .next (parseFrame (frameToParse s) s) := by
  unfold parsingStep
  split
  · rename_i i hd
    obtain ⟨he, ⟨a, b, d, lo, hi, rfl⟩ | ⟨a, b, d, lo, hi, rfl⟩⟩ := decodeResponse_ok hd
    · simp [exec, execRspReadHoldingRegisters, takeResponse, h, he]
    · simp [exec, execRspReadInputRegisters, takeResponse, h, he]
  · rfl

/-! ### Internal steps -/

theorem interpretStep_next {s t : State} (h : interpretStep s = .next t) :
    (∃ r, s.pres = some (.ok r) ∧ t = goto .success s) ∨ (∃ e, s.pres = some (.err e) ∧ t = raiseError e s) := by
  unfold interpretStep at h
  split at h
  · cases h; exact .inl ⟨_, ‹_›, rfl⟩
  · cases h; exact .inr ⟨_, ‹_›, rfl⟩
  · cases h

theorem successStep_next {s t : State} (h : successStep s = .next t) :
    ∃ r c, s.pres = some (.ok r) ∧ s.cfg = some c ∧
      t = enterPollSleep c (emit (.reportSuccess r) (endAttempt s)) := by
  unfold successStep at h
  split at h
  · obtain ⟨c, hc, hk⟩ := withCfg_next h
    cases hk; exact ⟨_, c, ‹_›, hc, rfl⟩
  · cases h

theorem retryableStep_next {s t : State} (h : retryableStep s = .next t) :
    ∃ c, s.cfg = some c ∧
      ((attemptsRemain c s = true ∧ t = enterRetryWait c (endAttempt s)) ∨
       (attemptsRemain c s = false ∧ ∃ e, s.lastError = some e ∧
          t = enterPollSleep c (emit (.reportFailure e s.attempt) (endAttempt s)))) := by
  obtain ⟨c, hc, hk⟩ := withCfg_next h
  refine ⟨c, hc, ?_⟩
  cases hr : attemptsRemain c s
  · simp only [hr] at hk
    split at hk
    · exact absurd ‹false = true› (by decide)
    · split at hk
      · cases hk; exact .inr ⟨rfl, _, ‹_›, rfl⟩
      · cases hk
  · simp only [hr, if_true] at hk
    cases hk; exact .inl ⟨rfl, rfl⟩

theorem fatalStep_next {s t : State} (h : fatalStep s = .next t) :
    ∃ c, s.cfg = some c ∧ t = enterPollSleep c (emit (.reportFailure .connectionRefused s.attempt) (endAttempt s)) := by
  obtain ⟨c, hc, hk⟩ := withCfg_next h
  cases hk; exact ⟨c, hc, rfl⟩

/-- In a resting state there is no internal step (spec 44_controller.md R251). -/
theorem internalStep_resting {s : State} (h : transient s.ctlState = false) : internalStep s = .next s := by
  unfold internalStep
  cases hc : s.ctlState <;> simp_all [transient]

/-- Everything an internal step can do, by the transient state it leaves (spec 44_controller.md R274 to R279). -/
theorem internalStep_next {s t : State} (ht : transient s.ctlState = true) (h : internalStep s = .next t) :
    (s.ctlState = .parsing ∧ t = parseFrame (frameToParse s) s) ∨
    (s.ctlState = .interpreting ∧ interpretStep s = .next t) ∨
    (s.ctlState = .success ∧ successStep s = .next t) ∨
    (s.ctlState = .retryableFailure ∧ retryableStep s = .next t) ∨
    (s.ctlState = .fatalFailure ∧ fatalStep s = .next t) := by
  unfold internalStep at h
  cases hc : s.ctlState <;> simp_all [transient]
  rw [parsingStep_eq hc] at h
  cases h; rfl

/-! ### Refused host words -/

theorem withCfg_refused {s : State} {k : Cfg → Answer} {r : Refusal} (h : withCfg s k = .refused r) :
    ∃ c, k c = .refused r := by
  unfold withCfg at h
  split at h
  · cases h
  · exact ⟨_, h⟩

theorem takeEvent_refused {i : Instr} {s : State} {e : Answer} {r : Refusal} (h : takeEvent i s e = .refused r) :
    e = .refused r := by
  unfold takeEvent at h
  repeat' split at h
  · cases h
  · exact h
  · cases h

/-- No event is refused (spec 44_controller.md R250, R291). -/
theorem exec_event_not_refused {i : Instr} {s : State} (hi : i.port = .event) (r : Refusal) :
    exec i s ≠ .refused r := by
  intro h
  cases i <;> simp only [Instr.port, reduceCtorEq] at hi <;> replace h := takeEvent_refused h
  case evConnectOk => obtain ⟨c, h⟩ := withCfg_refused h; split at h <;> cases h
  case evTimerDone => obtain ⟨c, h⟩ := withCfg_refused h; split at h <;> cases h
  case evRxData => dsimp only at h; repeat' split at h
                   all_goals cases h
  all_goals repeat' split at h
  all_goals cases h

/-- Everything `exec` refuses (spec 60_exceptions.md R337): three host commands, by the checks of their rules. -/
theorem exec_refused {i : Instr} {s : State} {r : Refusal} (h : exec i s = .refused r) :
    (r = .illegalState ∧ hostOwnsBuffer s.ctlState = false ∧ (i = .raReset ∨ ∃ d, i = .raFeed d)) ∨
    (r = .capacity ∧ hostOwnsBuffer s.ctlState = true ∧
      ∃ d, i = .raFeed d ∧ d ≠ [] ∧ s.par.rxBufCap < s.rxBuf.length + d.length) ∨
    (r = .illegalState ∧ s.ctlState ≠ .idle ∧ ∃ a b c d m u y p ep, i = .ctlStart a b c d m u y p ep) := by
  cases i
  case raReset =>
    simp only [exec, execRaReset] at h
    split at h <;> cases h
    exact .inl ⟨rfl, by simp_all, .inl rfl⟩
  case raFeed d =>
    simp only [exec, execRaFeed] at h
    repeat' split at h
    all_goals cases h
    · exact .inr (.inl ⟨rfl, ‹_›, d, rfl, fun hd => ‹¬d.length = 0› (by simp [hd]), ‹_›⟩)
    · exact .inl ⟨rfl, by simp_all, .inr ⟨d, rfl⟩⟩
  case ctlStart =>
    simp only [exec, execCtlStart] at h
    repeat' split at h
    all_goals cases h
    exact .inr (.inr ⟨rfl, ‹_›, _, _, _, _, _, _, _, _, _, rfl⟩)
  case build => simp only [exec, execBuild] at h; split at h <;> cases h
  case parse => simp only [exec, execParse] at h; split at h <;> cases h
  case ctlCancel => simp only [exec, execCtlCancel] at h; split at h <;> cases h
  case crc16 => cases h
  case ctlStatus => cases h
  case reqReadHoldingRegisters =>
    simp only [exec, execReqReadHoldingRegisters, sendRequest] at h
    split at h
    · obtain ⟨c, h⟩ := withCfg_refused h; split at h <;> cases h
    · cases h
  case reqReadInputRegisters =>
    simp only [exec, execReqReadInputRegisters, sendRequest] at h
    split at h
    · obtain ⟨c, h⟩ := withCfg_refused h; split at h <;> cases h
    · cases h
  case rspReadHoldingRegisters =>
    simp only [exec, execRspReadHoldingRegisters, takeResponse] at h; split at h <;> cases h
  case rspReadInputRegisters =>
    simp only [exec, execRspReadInputRegisters, takeResponse] at h; split at h <;> cases h
  all_goals exact absurd h (exec_event_not_refused rfl r)

/-- What the host port refuses: a word that is no command, or a command that `exec` refuses. -/
theorem hostStep_refused {w : List Byte} {s : State} {r : Refusal} (h : hostStep w s = .refused r) :
    ((∃ why, decodeHost w = .reject why) ∧ r = .illegalCommand) ∨
    ∃ i, decodeHost w = .ok i ∧ exec i s = .refused r := by
  unfold hostStep at h
  split at h
  · exact .inr ⟨_, ‹_›, h⟩
  · cases h; exact .inl ⟨⟨_, ‹_›⟩, rfl⟩

/-- Every refused host word has its response (spec 30_encoding.md R113). -/
theorem hostStep_refused_response {w : List Byte} {s : State} {r : Refusal} (h : hostStep w s = .refused r) :
    ∃ a, refusalResponse r = some a ∧ a ∈ [HostResponse.illegalCommand, .illegalState, .capacity] := by
  obtain ⟨-, rfl⟩ | ⟨i, -, h⟩ := hostStep_refused h
  · exact ⟨_, rfl, by simp⟩
  · obtain ⟨rfl, -⟩ | ⟨rfl, -⟩ | ⟨rfl, -⟩ := exec_refused h <;> exact ⟨_, rfl, by simp⟩

/-- The refusal of a command depends on neither the responses given nor what is pending. -/
theorem exec_refused_congr {i : Instr} {s : State} {r : Refusal} (q : List HostResponse) (p : List Arrival)
    (h : exec i s = .refused r) : exec i { s with resp := q, pending := p } = .refused r := by
  obtain ⟨rfl, ho, rfl | ⟨d, rfl⟩⟩ | ⟨rfl, ho, d, rfl, hd, hc⟩ | ⟨rfl, hs, a, b, c, d, m, u, y, p', ep, rfl⟩ := exec_refused h
  · simp [exec, execRaReset, ho]
  · simp [exec, execRaFeed, ho]
  · simp [exec, execRaFeed, ho, hd, hc]
  · simp [exec, execCtlStart, hs]

theorem refusedArrival_iff {s : State} {a : Arrival} :
    Safety.refusedArrival s a = true ↔ ∃ w r, a = .host w ∧ hostStep w s = .refused r := by
  unfold Safety.refusedArrival
  split
  · split <;> simp [*]
  · simp
  · simp

/-- Whether a word is refused depends on neither the responses given nor what is pending. -/
theorem refusedArrival_congr (s : State) (q : List HostResponse) (p : List Arrival) (a : Arrival) :
    Safety.refusedArrival { s with resp := q, pending := p } a = Safety.refusedArrival s a := by
  have key : ∀ (s : State) (q : List HostResponse) (p : List Arrival), Safety.refusedArrival s a = true →
      Safety.refusedArrival { s with resp := q, pending := p } a = true := by
    intro s q p h
    obtain ⟨w, r, rfl, hw⟩ := refusedArrival_iff.1 h
    refine refusedArrival_iff.2 ⟨w, r, rfl, ?_⟩
    obtain ⟨⟨why, hd⟩, rfl⟩ | ⟨i, hd, he⟩ := hostStep_refused hw
    · simp [hostStep, hd]
    · simp [hostStep, hd, exec_refused_congr q p he]
  exact Bool.eq_iff_iff.2 ⟨key { s with resp := q, pending := p } s.resp s.pending, key s q p⟩

/-! ### One step -/

theorem step_refused {s : State} {w : List Byte} {rest : List Arrival} {r : Refusal} {a : HostResponse}
    (hp : s.pending = .host w :: rest) (h : hostStep w { s with pending := rest } = .refused r)
    (ha : refusalResponse r = some a) : step s = step (respond a { s with pending := rest }) := by
  simp [step, takeNext, hp, takeFrom, h, ha, respond]

theorem step_host {s : State} {w : List Byte} {rest : List Arrival} (hp : s.pending = .host w :: rest)
    (h : ∀ r, hostStep w { s with pending := rest } ≠ .refused r) :
    step s = hostStep w { s with pending := rest } := by
  unfold step takeNext
  rw [hp, takeFrom]
  split
  · exact Eq.symm ‹_›
  · exact Eq.symm ‹_›
  · exact absurd ‹_› (h _)

/-- Everything a step can do, by what comes next (spec 00_scope.md R11, 44_controller.md R250, R251, 60_exceptions.md
R337). -/
theorem step_cases (s : State) :
    (s.pending = [] ∧ step s = internalStep s) ∨
    (∃ w rest, s.pending = .host w :: rest ∧ Safety.refusedArrival s (.host w) = false ∧
      step s = hostStep w { s with pending := rest }) ∨
    (∃ w rest a, s.pending = .host w :: rest ∧ Safety.refusedArrival s (.host w) = true ∧
      a ∈ [HostResponse.illegalCommand, .illegalState, .capacity] ∧
      step s = step (respond a { s with pending := rest })) ∨
    (∃ w rest, s.pending = .event w :: rest ∧ transient s.ctlState = true ∧ step s = internalStep s) ∨
    (∃ w rest, s.pending = .event w :: rest ∧ transient s.ctlState = false ∧
      step s = eventStep w { s with pending := rest }) ∨
    (∃ rest, s.pending = .internal :: rest ∧ step s = internalStep { s with pending := rest }) := by
  rcases hp : s.pending with _ | ⟨w | w | -, rest⟩
  · refine .inl ⟨rfl, ?_⟩
    simp only [step, takeNext, hp, takeFrom]
    rw [← hp]
  · cases hr : Safety.refusedArrival s (.host w)
    · refine .inr (.inl ⟨w, rest, rfl, hr, step_host hp fun r h => ?_⟩)
      rw [← refusedArrival_congr s s.resp rest, Bool.eq_false_iff] at hr
      exact hr (refusedArrival_iff.2 ⟨w, r, rfl, h⟩)
    · obtain ⟨_, r, hw, h⟩ := refusedArrival_iff.1 ((refusedArrival_congr s s.resp rest _).trans hr)
      cases hw
      obtain ⟨a, ha, hm⟩ := hostStep_refused_response h
      exact .inr (.inr (.inl ⟨w, rest, a, rfl, hr, hm, step_refused hp h ha⟩))
  · cases ht : transient s.ctlState
    · exact .inr (.inr (.inr (.inr (.inl ⟨w, rest, rfl, rfl, by simp [step, takeNext, hp, takeFrom, ht]⟩))))
    · refine .inr (.inr (.inr (.inl ⟨w, rest, rfl, rfl, ?_⟩)))
      simp only [step, takeNext, hp, takeFrom, ht, if_true]
      rw [← hp]
  · exact .inr (.inr (.inr (.inr (.inr ⟨rest, rfl, by simp [step, takeNext, hp, takeFrom]⟩))))

/-- To prove a fact of every state by what its step takes: it passes back over a refused word, and it holds where the
step takes no refused word. -/
theorem step_induction {P : State → Prop}
    (passes : ∀ (s : State) (w : List Byte) (rest : List Arrival) (a : HostResponse), s.pending = .host w :: rest →
      Safety.refusedArrival s (.host w) = true → step s = step (respond a { s with pending := rest }) →
      P (respond a { s with pending := rest }) → P s)
    (takes : ∀ s : State, (∀ w rest, s.pending = .host w :: rest → Safety.refusedArrival s (.host w) = false) → P s)
    (s : State) : P s := by
  rcases hp : s.pending with _ | ⟨x, rest⟩
  · exact takes s (by simp [hp])
  · cases hr : Safety.refusedArrival s x
    · exact takes s fun w l h => by rw [hp] at h; cases h; exact hr
    · obtain ⟨w, -, rfl, -⟩ := refusedArrival_iff.1 hr
      rcases step_cases s with h | ⟨w', l, h, h', -⟩ | ⟨w', l, a, h, -, -, he⟩ | ⟨_, _, h, -⟩ | ⟨_, _, h, -⟩ | ⟨_, h, -⟩
      · simp [hp] at h
      · rw [hp] at h; cases h; rw [hr] at h'; cases h'
      · rw [hp] at h; cases h
        exact passes s w rest a hp hr he (step_induction passes takes _)
      all_goals simp [hp] at h
  termination_by s.pending.length
  decreasing_by simp [hp]

end Sys2Proof.Machine
end

