-- ==== Sys2Proof/Laws/PerInstr.lean ====
section
/-! SUPPORT. Laws stated of every instruction, one lemma per constructor. EncodedForm: the word of a well-formed
instruction has the length its row of the opcode table gives and carries the row's code (spec 30_encoding.md R100,
R102, R104, R110, R111, R120, R121). -/

namespace Sys2Proof.Laws.EncodedForm

open Sys2Proof.Machine

/-- The "length" column of the opcode table. -/
def tableLength : Instr → Nat
  | .crc16 d => 3 + d.length
  | .build _ _ _ _ => 17
  | .raReset => 1
  | .raFeed d => 3 + d.length
  | .parse f => 3 + f.length
  | .ctlStart _ _ _ _ _ _ _ _ ep => 35 + ep.length
  | .ctlCancel => 1
  | .ctlStatus => 1
  | .evConnectOk => 1
  | .evConnectRefused => 1
  | .evConnectError => 1
  | .evSendOk => 1
  | .evSendError => 1
  | .evRxData d => 3 + d.length
  | .evRxError => 1
  | .evRxTimeout => 1
  | .evDeadline => 1
  | .evTimerDone => 1
  | .reqReadHoldingRegisters _ _ _ _ _ => 8
  | .reqReadInputRegisters _ _ _ _ _ => 8
  | .rspReadHoldingRegisters _ bc _ _ _ => bc.toNat + 5
  | .rspReadInputRegisters _ bc _ _ _ => bc.toNat + 5

/-- The fixed byte of the row: its value. -/
def tableCode : Instr → Byte
  | .crc16 _ => 0x01#8
  | .build _ _ _ _ => 0x02#8
  | .raReset => 0x03#8
  | .raFeed _ => 0x04#8
  | .parse _ => 0x05#8
  | .ctlStart _ _ _ _ _ _ _ _ _ => 0x10#8
  | .ctlCancel => 0x11#8
  | .ctlStatus => 0x12#8
  | .evConnectOk => 0x20#8
  | .evConnectRefused => 0x21#8
  | .evConnectError => 0x22#8
  | .evSendOk => 0x23#8
  | .evSendError => 0x24#8
  | .evRxData _ => 0x25#8
  | .evRxError => 0x26#8
  | .evRxTimeout => 0x27#8
  | .evDeadline => 0x28#8
  | .evTimerDone => 0x29#8
  | .reqReadHoldingRegisters _ _ _ _ _ => 0x03#8
  | .reqReadInputRegisters _ _ _ _ _ => 0x04#8
  | .rspReadHoldingRegisters _ _ _ _ _ => 0x03#8
  | .rspReadInputRegisters _ _ _ _ _ => 0x04#8

/-- The fixed byte of the row: its offset in the word. -/
def codeOffset (i : Instr) : Nat :=
  match i.port with
  | .host => 0
  | .event => 0
  | .request => 1
  | .response => 1

/-- The form of an instruction's word. -/
def Statement (i : Instr) : Prop :=
  i.wellFormed = true → (encode i).length = tableLength i ∧ byteAt (encode i) (codeOffset i) = tableCode i

theorem crc16 (d : List Byte) : Statement (.crc16 d) := fun _ => ⟨by simp [encode, encodeBlob, tableLength, bytes16]; omega, rfl⟩

theorem build (a b c e : Quad) : Statement (.build a b c e) := fun _ => ⟨rfl, rfl⟩

theorem raReset : Statement .raReset := fun _ => ⟨rfl, rfl⟩

theorem raFeed (d : List Byte) : Statement (.raFeed d) := fun _ => ⟨by simp [encode, encodeBlob, tableLength, bytes16]; omega, rfl⟩

theorem parse (f : List Byte) : Statement (.parse f) := fun _ => ⟨by simp [encode, encodeBlob, tableLength, bytes16]; omega, rfl⟩

theorem ctlStart (a b c e m t r p : Quad) (ep : List Byte) : Statement (.ctlStart a b c e m t r p ep) := fun _ => ⟨by simp [encode, tableLength, bytes32, bytes16]; omega, rfl⟩

theorem ctlCancel : Statement .ctlCancel := fun _ => ⟨rfl, rfl⟩

theorem ctlStatus : Statement .ctlStatus := fun _ => ⟨rfl, rfl⟩

theorem evConnectOk : Statement .evConnectOk := fun _ => ⟨rfl, rfl⟩

theorem evConnectRefused : Statement .evConnectRefused := fun _ => ⟨rfl, rfl⟩

theorem evConnectError : Statement .evConnectError := fun _ => ⟨rfl, rfl⟩

theorem evSendOk : Statement .evSendOk := fun _ => ⟨rfl, rfl⟩

theorem evSendError : Statement .evSendError := fun _ => ⟨rfl, rfl⟩

theorem evRxData (d : List Byte) : Statement (.evRxData d) := fun _ => ⟨by simp [encode, encodeBlob, tableLength, bytes16]; omega, rfl⟩

theorem evRxError : Statement .evRxError := fun _ => ⟨rfl, rfl⟩

theorem evRxTimeout : Statement .evRxTimeout := fun _ => ⟨rfl, rfl⟩

theorem evDeadline : Statement .evDeadline := fun _ => ⟨rfl, rfl⟩

theorem evTimerDone : Statement .evTimerDone := fun _ => ⟨rfl, rfl⟩

theorem reqReadHoldingRegisters (a : Byte) (s c : Half) (lo hi : Byte) : Statement (.reqReadHoldingRegisters a s c lo hi) := fun _ => ⟨rfl, rfl⟩

theorem reqReadInputRegisters (a : Byte) (s c : Half) (lo hi : Byte) : Statement (.reqReadInputRegisters a s c lo hi) := fun _ => ⟨rfl, rfl⟩

theorem rspReadHoldingRegisters (a bc : Byte) (d : List Byte) (lo hi : Byte) : Statement (.rspReadHoldingRegisters a bc d lo hi) := by
  intro h
  have : d.length = bc.toNat := by simpa [Instr.wellFormed] using h
  exact ⟨by simp [encode, responseFrame, tableLength]; omega, rfl⟩

theorem rspReadInputRegisters (a bc : Byte) (d : List Byte) (lo hi : Byte) : Statement (.rspReadInputRegisters a bc d lo hi) := by
  intro h
  have : d.length = bc.toNat := by simpa [Instr.wellFormed] using h
  exact ⟨by simp [encode, responseFrame, tableLength]; omega, rfl⟩

end Sys2Proof.Laws.EncodedForm
end

