-- ==== Sys2Proof/Tests/Slice0.lean ====
section
/-! SUPPORT. Tests with values from 95_test_vectors.md, and for each statement with hypotheses one theorem that shows
a concrete state and operands that meet them. -/

namespace Sys2Proof.Tests

set_option Elab.async false

open Sys2Proof.Machine Sys2Proof.Safety

/-- `cfgA` of 95_test_vectors.md L2-K. -/
def cfgA : Cfg :=
  { slave := 1#8, func := 4#8, start := 0#16, count := 2#16, maxAttempts := 3#32, timeout := 1000#32,
    retryDelay := 500#32, pollInterval := 2000#32, endpoint := [0x64#8, 0x65#8, 0x76#8] }

/-- The frame of 95_test_vectors.md L1-3, and the request of B2. -/
def frameP1 : List Byte := [0x01#8, 0x04#8, 0x04#8, 0x00#8, 0x64#8, 0x00#8, 0xC8#8, 0xBB#8, 0xCD#8]

/-- The request of B2. -/
def requestB2 : List Byte := [0x01#8, 0x04#8, 0x00#8, 0x00#8, 0x00#8, 0x02#8, 0x71#8, 0xCB#8]

/-- What L1-3 reads. -/
def readingP1 : Reading := { slave := 1#8, fc := 4#8, regs := [100#16, 200#16] }

/-- OUT_CONNECT under `cfgA`. -/
def connectA : OutWord := .connect 1000#32 [0x64#8, 0x65#8, 0x76#8]

/-- Attempt 1 under `cfgA`, in a state of the controller. -/
def at_ (c : CtlState) : State := { State.reset with ctlState := c, cfg := some cfgA, attempt := 1#32, out := [connectA] }

/-- The same with the connection open and the request sent. -/
def opened (c : CtlState) : State := { at_ c with connOpen := true, req := some requestB2 }

/-- A next state, and what it holds. -/
def nextIs (a : Answer) (p : State → Bool) : Bool :=
  match a with
  | .next t => p t
  | .fault _ => false
  | .refused _ => false

/-- A refusal for a reason. -/
def refusedIs (a : Answer) (r : Refusal) : Bool :=
  match a with
  | .next _ => false
  | .fault _ => false
  | .refused q => q == r

/-- Bytes from the numbers 95_test_vectors.md writes them as. -/
def hex (l : List Nat) : List Byte := l.map (BitVec.ofNat 8)

/-- The words a step appended to `out`. -/
def emitted (s t : State) : List OutWord := t.out.drop s.out.length

/-! ### Well-formedness: an ill-formed term for each check -/

/-- A byte string one longer than a u16 length field can say. -/
def longBlob : List Byte := List.replicate 65536 0x00#8

theorem fitsU16_longBlob : fitsU16 longBlob = false :=
  decide_eq_false (by rw [longBlob, List.length_replicate]; decide)

theorem test_wf_crc16 : (Instr.crc16 longBlob).wellFormed = false := fitsU16_longBlob
theorem test_wf_raFeed : (Instr.raFeed longBlob).wellFormed = false := fitsU16_longBlob
theorem test_wf_parse : (Instr.parse longBlob).wellFormed = false := fitsU16_longBlob
theorem test_wf_evRxData : (Instr.evRxData longBlob).wellFormed = false := fitsU16_longBlob
theorem test_wf_ctlStart : (Instr.ctlStart 1#32 3#32 0#32 1#32 1#32 0#32 0#32 0#32 longBlob).wellFormed = false :=
  fitsU16_longBlob
theorem test_wf_request_ok : (Instr.reqReadInputRegisters 1#8 0#16 2#16 0x71#8 0xCB#8).wellFormed = true := by decide +kernel
theorem test_wf_request_slave : (Instr.reqReadHoldingRegisters 248#8 0#16 1#16 0x00#8 0x00#8).wellFormed = false := by
  decide +kernel
theorem test_wf_request_count : (Instr.reqReadHoldingRegisters 1#8 0#16 0#16 0x45#8 0xCA#8).wellFormed = false := by
  decide +kernel
theorem test_wf_request_crc : (Instr.reqReadInputRegisters 1#8 0#16 2#16 0xCB#8 0x71#8).wellFormed = false := by
  decide +kernel
theorem test_wf_response_length_input :
    (Instr.rspReadInputRegisters 1#8 4#8 [0x00#8, 0x01#8] 0x99#8 0x85#8).wellFormed = false := by decide
theorem test_wf_response_length :
    (Instr.rspReadHoldingRegisters 1#8 4#8 [0x00#8, 0x01#8] 0x99#8 0x85#8).wellFormed = false := by decide

/-! ### Decoding: the words of 95_test_vectors.md, one for every constructor -/

theorem test_decode_CRC16 :
    decodeOn .host (hex [0x01, 0x00, 0x02, 0x01, 0x03]) = .ok (.crc16 [0x01#8, 0x03#8]) := by decide +kernel -- C6
theorem test_decode_BUILD :
    decodeOn .host (hex [0x02, 0x00, 0x00, 0x00, 0x11, 0x00, 0x00, 0x00, 0x03, 0x00, 0x00, 0x00, 0x6B, 0x00,
      0x00, 0x00, 0x03]) =
    .ok (.build 0x11#32 3#32 0x6B#32 3#32) := by decide +kernel -- B3
theorem test_decode_BUILD_signed :
    decodeOn .host (hex [0x02, 0xFF, 0xFF, 0xFF, 0xFF, 0x00, 0x00, 0x00, 0x03, 0x00, 0x00, 0x00, 0x00, 0x00,
      0x01, 0x00, 0x00]) =
    .ok (.build 0xFFFFFFFF#32 3#32 0#32 0x10000#32) := by decide +kernel -- B10, B17
theorem test_decode_RA_RESET : decodeOn .host (hex [0x03]) = .ok .raReset := by decide +kernel -- R1
theorem test_decode_RA_FEED : decodeOn .host (hex [0x04, 0x00, 0x05, 0x01, 0x04, 0x04, 0x00, 0x64]) =
    .ok (.raFeed [0x01#8, 0x04#8, 0x04#8, 0x00#8, 0x64#8]) := by decide +kernel -- R2
theorem test_decode_PARSE : decodeOn .host (hex [0x05, 0x00, 0x04, 0x01, 0x03, 0x40, 0x21]) =
    .ok (.parse [0x01#8, 0x03#8, 0x40#8, 0x21#8]) := by decide +kernel -- PV11
theorem test_decode_CTL_START :
    decodeOn .host (hex [0x10, 0x00, 0x00, 0x00, 0x01, 0x00, 0x00, 0x00, 0x04, 0x00, 0x00, 0x00, 0x00, 0x00,
      0x00, 0x00, 0x02, 0x00, 0x00, 0x00, 0x03, 0x00, 0x00, 0x03, 0xE8, 0x00, 0x00, 0x01, 0xF4, 0x00, 0x00, 0x07, 0xD0, 0x00, 0x03, 0x64, 0x65, 0x76]) =
    .ok (.ctlStart 1#32 4#32 0#32 2#32 3#32 1000#32 500#32 2000#32 [0x64#8, 0x65#8, 0x76#8]) := by
  decide +kernel -- cfgA
theorem test_decode_CTL_CANCEL : decodeOn .host (hex [0x11]) = .ok .ctlCancel := by decide +kernel -- K31
theorem test_decode_CTL_STATUS : decodeOn .host (hex [0x12]) = .ok .ctlStatus := by decide +kernel -- K40
theorem test_decode_EV_CONNECT_OK : decodeOn .event (hex [0x20]) = .ok .evConnectOk := by decide +kernel -- K2
theorem test_decode_EV_CONNECT_REFUSED :
    decodeOn .event (hex [0x21]) = .ok .evConnectRefused := by decide +kernel -- K3
theorem test_decode_EV_CONNECT_ERROR : decodeOn .event (hex [0x22]) = .ok .evConnectError := by decide +kernel -- K4
theorem test_decode_EV_SEND_OK : decodeOn .event (hex [0x23]) = .ok .evSendOk := by decide +kernel -- K5
theorem test_decode_EV_SEND_ERROR : decodeOn .event (hex [0x24]) = .ok .evSendError := by decide +kernel -- K9
theorem test_decode_EV_RX_DATA : decodeOn .event (hex [0x25, 0x00, 0x03, 0x01, 0x04, 0x04]) =
    .ok (.evRxData [0x01#8, 0x04#8, 0x04#8]) := by decide +kernel -- K12
theorem test_decode_EV_RX_DATA_empty :
    decodeOn .event (hex [0x25, 0x00, 0x00]) = .ok (.evRxData []) := by decide +kernel -- K16
theorem test_decode_EV_RX_ERROR : decodeOn .event (hex [0x26]) = .ok .evRxError := by decide +kernel -- K18
theorem test_decode_EV_RX_TIMEOUT : decodeOn .event (hex [0x27]) = .ok .evRxTimeout := by decide +kernel -- K19
theorem test_decode_EV_DEADLINE : decodeOn .event (hex [0x28]) = .ok .evDeadline := by decide +kernel -- K6
theorem test_decode_EV_TIMER_DONE : decodeOn .event (hex [0x29]) = .ok .evTimerDone := by decide +kernel -- K20
theorem test_decode_REQ_ReadHoldingRegisters :
    decodeOn .request (hex [0x11, 0x03, 0x00, 0x6B, 0x00, 0x03, 0x76, 0x87]) =
    .ok (.reqReadHoldingRegisters 0x11#8 0x006B#16 3#16 0x76#8 0x87#8) := by decide +kernel -- B3
theorem test_decode_REQ_ReadInputRegisters :
    decodeOn .request (hex [0x02, 0x04, 0x00, 0x01, 0x00, 0x02, 0x20, 0x38]) =
    .ok (.reqReadInputRegisters 2#8 1#16 2#16 0x20#8 0x38#8) := by decide +kernel -- B7
theorem test_decode_RSP_ReadHoldingRegisters : decodeOn .response (hex [0x01, 0x03, 0x02, 0x12, 0x34, 0xB5, 0x33]) =
    .ok (.rspReadHoldingRegisters 1#8 2#8 [0x12#8, 0x34#8] 0xB5#8 0x33#8) := by decide +kernel -- PV2
theorem test_decode_RSP_ReadInputRegisters :
    decodeOn .response (hex [0x02, 0x04, 0x04, 0x01, 0x02, 0x03, 0x04, 0x69, 0x8B]) =
    .ok (.rspReadInputRegisters 2#8 4#8 [0x01#8, 0x02#8, 0x03#8, 0x04#8] 0x69#8 0x8B#8) := by decide +kernel -- PV4

theorem test_decode_short_blob : decodeHost [0x01#8, 0x00#8, 0x01#8] = .reject .lengthMismatch := by decide -- C14
theorem test_decode_trailing : decodeHost [0x01#8, 0x00#8, 0x00#8,
      0x00#8] = .reject .lengthMismatch := by decide -- C15
theorem test_decode_event_on_host : decodeHost [0x20#8] = .reject (.unknownCode 0x20#8) := by decide -- R111
theorem test_decode_exception_response :
    decodeResponse [0x01#8, 0x83#8, 0x02#8, 0xC0#8,
      0xF1#8] = .reject (.unsupportedFunction 0x83#8) := by decide -- PV13
theorem test_tableWord_request : decodeTableWord 64 0x010300000001840A =
    some (.reqReadHoldingRegisters 1#8 0#16 1#16 0x84#8 0x0A#8) := by decide +kernel -- B1
theorem test_tableWord_event : decodeTableWord 8 0x25 = some (.evRxData []) := by decide +kernel -- K16
theorem test_withFetchWord_event :
    nextIs (step ((at_ .connecting).withFetchWord 8 0x21)) (fun t => t.ctlState == .fatalFailure) = true := by
  decide +kernel -- K3

/-! ### One step each: the host commands -/

theorem test_CRC16 :
    nextIs (exec (.crc16 [0x01#8]) .reset)
      (fun t => t.resp.map responseBytes == [hex [0x00, 0x7E, 0x80]]) = true := by decide +kernel -- C4
theorem test_CRC16_empty :
    nextIs (exec (.crc16 []) .reset)
      (fun t => t.resp.map responseBytes == [hex [0x00, 0xFF, 0xFF]]) = true := by decide +kernel -- C1
theorem test_BUILD :
    nextIs (exec (.build 0x11#32 3#32 0x6B#32 3#32) .reset)
      (fun t => t.resp.map responseBytes == [hex [0x00, 0x11, 0x03, 0x00, 0x6B, 0x00, 0x03, 0x76, 0x87]]) = true := by
  decide +kernel -- B3
theorem test_BUILD_refuses :
    nextIs (exec (.build 0x7FFFFFFF#32 3#32 0#32 1#32) .reset)
      (fun t => t.resp.map responseBytes == [hex [0x01, 0x01, 0x00]]) = true := by decide +kernel -- B11
theorem test_RA_RESET :
    nextIs (exec .raReset { State.reset with rxBuf := [0x01#8] })
      (fun t => t.rxBuf == [] && t.resp.map responseBytes == [hex [0x00]]) = true := by decide +kernel -- R5
theorem test_RA_RESET_illegal :
    nextIs (step { opened .receiving with pending := [.host [0x03#8], .host [0x11#8]] })
      (fun t => t.resp.map responseBytes == [hex [0x81], hex [0x00]] && t.cancelPending && t.pending == []) = true := by
  decide +kernel -- R199, R337
theorem test_RA_FEED :
    nextIs (exec (.raFeed [0x00#8, 0xC8#8, 0xBB#8, 0xCD#8]) { State.reset with rxBuf := frameP1.take 5 })
      (fun t => t.rxBuf == frameP1 && t.resp.map responseBytes == [hex [0x00, 0x01]]) = true := by
  decide +kernel -- R3
theorem test_RA_FEED_capacity :
    nextIs (step { State.reset with
        rxBuf := List.replicate 515 0x00#8, pending := [.host (hex [0x04, 0x00, 0x01, 0x00])] })
      (fun t => t.rxBuf.length == 515 && t.resp.map responseBytes == [hex [0x82]]) = true := by decide +kernel -- R13
theorem test_PARSE :
    nextIs (exec (.parse frameP1) .reset)
      (fun t => t.resp.map responseBytes == [hex [0x00, 0x01, 0x04, 0x00, 0x02, 0x00, 0x64, 0x00, 0xC8]]) = true := by
  decide +kernel -- PV1
theorem test_PARSE_mismatch :
    nextIs (exec (.parse [0x01#8, 0x10#8, 0x00#8, 0x00#8]) .reset)
      (fun t => t.resp.map responseBytes == [hex [0x01, 0x03, 0x04, 0x00, 0x00, 0xEC, 0x01]]) = true := by
  decide +kernel -- PV15
theorem test_CTL_START :
    nextIs (exec (.ctlStart 1#32 4#32 0#32 2#32 3#32 1000#32 500#32 2000#32 [0x64#8, 0x65#8, 0x76#8]) .reset)
      (fun t => t.cfg == some cfgA &&
        t.attempt == 1#32 &&
        t.ctlState == .connecting &&
        t.out.map outBytes == [hex [0x40, 0x00, 0x00, 0x03, 0xE8, 0x00, 0x03, 0x64, 0x65, 0x76]]) = true := by
  decide +kernel -- K1
theorem test_CTL_START_misconfigured :
    nextIs (exec (.ctlStart 248#32 4#32 0#32 2#32 3#32 0#32 0#32 0#32 []) .reset)
      (fun t => t.cfg.isNone &&
        t.ctlState == .stopped &&
        t.resp.map responseBytes == [hex [0x01, 0x01, 0x00]] &&
        t.out.map outBytes == [hex [0x49, 0x02, 0x01]]) = true := by decide +kernel -- K37
theorem test_CTL_CANCEL :
    nextIs (exec .ctlCancel (at_ .pollSleep))
      (fun t => t.stopReason == .cancelled &&
        (emitted (at_ .pollSleep) t).map outBytes == [hex [0x49, 0x01, 0x00]]) = true := by decide +kernel -- K31
theorem test_CTL_CANCEL_latch :
    nextIs (exec .ctlCancel (opened .receiving))
      (fun t => t.ctlState == .receiving && t.cancelPending && t.out == [connectA]) = true := by decide +kernel -- K32
theorem test_CTL_STATUS :
    nextIs (exec .ctlStatus .reset)
      (fun t => t.resp.map responseBytes == [hex [0x00, 0x00, 0x00, 0x00, 0x00, 0x00, 0x00, 0x00, 0x00]]) = true := by
  decide +kernel -- K40
theorem test_CTL_STATUS_flags :
    nextIs (exec .ctlStatus { opened .receiving with cancelPending := true })
      (fun t => t.resp.map responseBytes == [hex [0x00, 0x03, 0x00, 0x00, 0x00, 0x01, 0x00, 0x0D, 0x00]]) = true := by
  decide +kernel -- P5

/-! ### One step each: the events -/

theorem test_EV_CONNECT_OK :
    nextIs (exec .evConnectOk (at_ .connecting))
      (fun t => t.ctlState == .sending &&
        t.connOpen &&
        t.req == some requestB2 &&
        (emitted (at_ .connecting) t).map outBytes ==
          [hex [0x44, 0x00, 0x00, 0x03, 0xE8], hex [0x41, 0x01, 0x04, 0x00, 0x00, 0x00, 0x02, 0x71, 0xCB]]) = true := by
  decide +kernel -- K2
theorem test_EV_CONNECT_REFUSED :
    nextIs (exec .evConnectRefused (at_ .connecting))
      (fun t => t.ctlState == .fatalFailure && t.lastError == some .connectionRefused) = true := by
  decide +kernel -- K3
theorem test_EV_CONNECT_ERROR :
    nextIs (exec .evConnectError (at_ .connecting))
      (fun t => t.ctlState == .retryableFailure && t.lastError == some .transportError) = true := by
  decide +kernel -- K4
theorem test_EV_SEND_OK :
    nextIs (exec .evSendOk (opened .sending))
      (fun t => t.ctlState == .receiving &&
        (emitted (opened .sending) t).map outBytes == [hex [0x42, 0x01, 0x00]]) = true := by decide +kernel -- K7
theorem test_EV_SEND_OK_expired :
    nextIs (exec .evSendOk { opened .sending with deadlineExpired := true })
      (fun t => t.lastError == some .receiveTimeout && t.out == [connectA]) = true := by decide +kernel -- K8
theorem test_EV_SEND_ERROR :
    nextIs (exec .evSendError (opened .sending))
      (fun t => t.lastError == some .transportError) = true := by decide +kernel -- K9
theorem test_EV_RX_DATA :
    nextIs (exec (.evRxData [0x01#8, 0x04#8, 0x04#8]) (opened .receiving))
      (fun t => t.rxBuf == [0x01#8, 0x04#8, 0x04#8] &&
        (emitted (opened .receiving) t).map outBytes == [hex [0x42, 0x01, 0x00]]) = true := by decide +kernel -- K12
theorem test_EV_RX_DATA_complete :
    nextIs (exec (.evRxData frameP1) { opened .receiving with deadlineExpired := true })
      (fun t => t.ctlState == .parsing) = true := by decide +kernel -- K15
theorem test_EV_RX_ERROR :
    nextIs (exec .evRxError (opened .receiving))
      (fun t => t.lastError == some .transportError) = true := by decide +kernel -- K18
theorem test_EV_RX_TIMEOUT :
    nextIs (exec .evRxTimeout (opened .receiving))
      (fun t => t.lastError == some .receiveTimeout) = true := by decide +kernel -- K19
theorem test_EV_DEADLINE :
    nextIs (exec .evDeadline (opened .sending))
      (fun t => t.ctlState == .sending && t.deadlineExpired) = true := by decide +kernel -- K10
theorem test_EV_DEADLINE_twice :
    nextIs (exec .evDeadline { opened .sending with deadlineExpired := true })
      (fun t => t.stopReason == .unexpectedEvent &&
        (emitted (opened .sending) t).map outBytes == [hex [0x45], hex [0x43], hex [0x49, 0x03, 0x00]]) = true := by
  decide +kernel -- K11
theorem test_EV_TIMER_DONE :
    nextIs (exec .evTimerDone { at_ .retryWait with lastError := some .receiveTimeout })
      (fun t => t.attempt == 2#32 && t.lastError == some .receiveTimeout) = true := by decide +kernel -- K29
theorem test_EV_TIMER_DONE_cycle :
    nextIs (exec .evTimerDone { at_ .pollSleep with attempt := 3#32, lastError := some .receiveTimeout })
      (fun t => t.attempt == 1#32 && t.lastError == none) = true := by decide +kernel -- K30

/-! ### One step each: the wire frames and the internal steps -/

theorem test_REQ_ReadInputRegisters :
    nextIs (exec (.reqReadInputRegisters 1#8 0#16 2#16 0x71#8 0xCB#8) (at_ .connecting))
      (fun t => (emitted (at_ .connecting) t).map outBytes ==
          [hex [0x44, 0x00, 0x00, 0x03, 0xE8], hex [0x41, 0x01, 0x04, 0x00, 0x00, 0x00, 0x02, 0x71, 0xCB]]) = true := by
  decide +kernel -- K2
theorem test_REQ_ReadHoldingRegisters :
    nextIs (exec (.reqReadHoldingRegisters 0x11#8 0x6B#16 3#16 0x76#8 0x87#8) (at_ .connecting))
      (fun t => t.req == some (hex [0x11, 0x03, 0x00, 0x6B, 0x00, 0x03, 0x76, 0x87])) = true := by
  decide +kernel -- B3
theorem test_RSP_ReadInputRegisters :
    nextIs (exec (.rspReadInputRegisters 1#8 4#8 [0x00#8, 0x64#8, 0x00#8, 0xC8#8] 0xBB#8 0xCD#8)
        { opened .parsing with rxBuf := frameP1 })
      (fun t => t.pres == some (.ok readingP1) && t.rxBuf == []) = true := by decide +kernel -- K22
theorem test_RSP_ReadHoldingRegisters :
    nextIs (exec (.rspReadHoldingRegisters 1#8 2#8 [0x12#8, 0x34#8] 0xB5#8 0x33#8) (opened .parsing))
      (fun t => t.pres == some (.ok { slave := 1#8, fc := 3#8, regs := [0x1234#16] })) = true := by
  decide +kernel -- PV2
theorem test_SUCCESS :
    nextIs (internalStep { opened .success with pres := some (.ok readingP1) })
      (fun t => t.ctlState == .pollSleep &&
        (emitted (opened .success) t).map outBytes == [hex [0x45], hex [0x43],
          hex [0x47, 0x01, 0x04, 0x00, 0x02, 0x00, 0x64, 0x00, 0xC8], hex [0x46, 0x00, 0x00, 0x07, 0xD0]]) = true := by
  decide +kernel -- K25
theorem test_RETRYABLE_FAILURE :
    nextIs (internalStep { opened .retryableFailure with attempt := 3#32, lastError := some .receiveTimeout })
      (fun t => (emitted (opened .success) t).map outBytes == [hex [0x45], hex [0x43],
          hex [0x48, 0x06, 0x00, 0x00, 0x00, 0x03, 0x00], hex [0x46, 0x00, 0x00, 0x07, 0xD0]]) = true := by
  decide +kernel -- K27
theorem test_FATAL_FAILURE :
    nextIs (internalStep { at_ .fatalFailure with lastError := some .connectionRefused })
      (fun t => (emitted (at_ .fatalFailure) t).map outBytes == [hex [0x48, 0x08, 0x00, 0x00, 0x00, 0x01, 0x00], hex [0x46, 0x00, 0x00, 0x07, 0xD0]]) = true := by
  decide +kernel -- K28
theorem test_INTERPRETING :
    nextIs (internalStep { opened .interpreting with pres := some (.err (.crcMismatch 0xCCBB#16 0xCDBB#16)) })
      (fun t => t.ctlState == .retryableFailure &&
        t.lastError == some (.crcMismatch 0xCCBB#16 0xCDBB#16)) = true := by decide +kernel -- K24

/-! ### Witnesses: states and operands that meet the hypotheses of the statements -/

theorem witness_DecodeEncodeAgree : (Instr.reqReadInputRegisters 1#8 0#16 2#16 0x71#8 0xCB#8).wellFormed = true ∧
    (Instr.crc16 []).wellFormed = true ∧
    (Instr.rspReadHoldingRegisters 1#8 0#8 [] 0x20#8 0xF0#8).wellFormed = true := by decide +kernel

theorem witness_DecodedWordReencodes : decodeOn .host [0x12#8] = .ok .ctlStatus ∧ Port.host ≠ .request ∧
    decodeOn .request requestB2 = .ok (.reqReadInputRegisters 1#8 0#16 2#16 0x71#8 0xCB#8) := by decide +kernel

/-- A word of each illegal form of R114: empty, unassigned, too long, too short, not what `n` or `e` gives. -/
theorem witness_IllegalHostWords :
    decodeHost [] = .reject .emptyWord ∧ decodeHost [0x06#8] = .reject (.unknownCode 0x06#8) ∧
    decodeHost [0x12#8, 0x00#8] = .reject .lengthMismatch ∧
    decodeHost (0x02#8 :: List.replicate 15 0x00#8) = .reject .lengthMismatch ∧
    decodeHost [0x01#8, 0x00#8] = .reject .lengthMismatch ∧
    decodeHost [0x04#8, 0x00#8, 0x02#8, 0x01#8] = .reject .lengthMismatch ∧
    decodeHost (0x10#8 :: List.replicate 33 0x00#8) = .reject .lengthMismatch ∧
    decodeHost (0x10#8 :: List.replicate 35 0x00#8) = .reject .lengthMismatch ∧
    ({ State.reset with pending := [.host []] }).pending = .host [] :: [] := by decide +kernel

/-- An unassigned code, a too long `E0`, and the two ways an `EB` word goes wrong, in RECEIVING. -/
theorem witness_MalformedEventWords :
    transient (opened .receiving).ctlState = false ∧
    ((0x2A#8 : Byte) ∉ [0x20#8, 0x21#8, 0x22#8, 0x23#8, 0x24#8, 0x25#8, 0x26#8, 0x27#8, 0x28#8, 0x29#8]) ∧
    ((0x29#8 : Byte) ≠ 0x25#8 ∧ [0x29#8, 0x00#8].length ≠ 1) ∧ [0x25#8, 0x00#8].length < 3 ∧
    [0x25#8, 0x00#8, 0x05#8, 0x01#8].length ≠ 3 + (be16 0x00#8 0x05#8).toNat := by decide

theorem witness_OutputWordLayout : cfgA.endpoint.length ≤ 65535 ∧ readingP1.regs.length ≤ 65535 ∧
    ∀ rcv cmp, Err.receiveTimeout ≠ .crcMismatch rcv cmp := ⟨by decide, by decide, nofun⟩

theorem witness_CrcCommand : ([] : List Byte).length ≤ 65535 ∧ frameP1.length ≤ 65535 := by decide

/-- The buffer filled to its capacity, and one byte past it. -/
theorem witness_RaFeedCommand : frameP1.length ≤ 65535 ∧
    ((opened .receiving).ctlState ≠ .idle ∧ (opened .receiving).ctlState ≠ .stopped) ∧
    State.reset.ctlState = .idle ∧ (at_ .stopped).ctlState = .stopped ∧ frameP1 ≠ [] ∧
    (List.replicate 506 (0x00#8 : Byte)).length + frameP1.length ≤ State.reset.par.rxBufCap ∧
    State.reset.par.rxBufCap < (List.replicate 507 (0x00#8 : Byte)).length + frameP1.length := by decide +kernel

theorem witness_CtlStartCommand : cfgA.endpoint.length ≤ 65535 ∧ State.reset.ctlState = .idle ∧
    (at_ .stopped).ctlState ≠ .idle := by decide

/-- One refused word of each kind: ILLEGAL_COMMAND, ILLEGAL_STATE (RA_RESET, RA_FEED, CTL_START), CAPACITY. -/
theorem witness_RefusedHostWords :
    refusedIs (hostStep [0x06#8] .reset) .illegalCommand = true ∧
    refusedIs (hostStep [0x03#8] (opened .receiving)) .illegalState = true ∧
    refusedIs (hostStep (hex [0x04, 0x00, 0x00]) (opened .receiving)) .illegalState = true ∧
    refusedIs (hostStep (encode (.ctlStart 1#32 4#32 0#32 2#32 3#32 0#32 0#32 0#32 [])) (at_ .stopped))
      .illegalState = true ∧
    refusedIs (hostStep (hex [0x04, 0x00, 0x01, 0x00]) { State.reset with rxBuf := List.replicate 515 0x00#8 })
      .capacity = true ∧
    ({ State.reset with pending := [.host [0x06#8]] }).pending = .host [0x06#8] :: [] := by decide +kernel

/-- In RECEIVING: an answer to the read and one to the budget, both accepted; in RETRY_WAIT the timer's. -/
theorem witness_OutstandingOperations : (opened .receiving).ctlState = .receiving ∧
    (opened .sending).ctlState = .sending ∧ (opened .sending).connOpen = true ∧ (at_ .retryWait).ctlState = .retryWait ∧
    (at_ .pollSleep).ctlState = .pollSleep ∧ (at_ .connecting).ctlState = .connecting ∧
    State.reset.ctlState ∉ [CtlState.connecting, .sending, .receiving, .retryWait, .pollSleep] ∧
    accepts (opened .receiving) .evRxError = true ∧ accepts (opened .receiving) .evDeadline = true ∧
    accepts (opened .receiving) .evSendOk = false := by decide

/-- The parameters at both ends of their ranges, and one past the end. -/
theorem witness_BuilderFrames :
    validReq 0 3 0 1 = true ∧ validReq 247 4 65535 65535 = true ∧ validReq 248 3 0 1 = false ∧
    validReq (-1) 3 0 1 = false ∧ validReq 1 6 0 1 = false ∧ validReq 1 3 65536 1 = false ∧ validReq 1 3 0 0 = false ∧
    validReq 1 3 0 65536 = false := by decide

theorem witness_RequestFramesSent : (at_ .connecting).cfg = some cfgA ∧ (at_ .connecting).ctlState = .connecting ∧
    (Instr.reqReadInputRegisters 1#8 0#16 2#16 0x71#8 0xCB#8).wellFormed = true ∧
    (Instr.reqReadHoldingRegisters 0x11#8 0x6B#16 3#16 0x76#8 0x87#8).wellFormed = true ∧
    State.reset.ctlState ≠ .connecting := by decide +kernel

theorem witness_RaResetCommand : State.reset.ctlState = .idle ∧ (at_ .stopped).ctlState = .stopped ∧
    (at_ .receiving).ctlState ≠ .idle ∧ (at_ .receiving).ctlState ≠ .stopped := by decide

theorem witness_ChunkSizeInvariance : State.reset.ctlState = .idle ∧ State.reset.rxBuf = [] ∧
    frameP1.length ≤ State.reset.par.rxBufCap ∧ frameP1 ≠ [] ∧ raComplete (frameP1.take 9) = true ∧
    raComplete (frameP1.take 8) = false := by decide

/-- PV19, PV15, PV12, PV11 and L1-3: a frame for each step. -/
theorem witness_ParserSteps :
    [0x01#8, 0x03#8, 0x00#8].length < 4 ∧ le16 0x00#8 0x00#8 ≠ crc16 [0x01#8, 0x10#8] ∧
    le16 0x01#8 0xEC#8 = crc16 [0x01#8, 0x10#8] ∧ ((0x10#8 : Byte) ≠ 3#8 ∧ (0x10#8 : Byte) ≠ 4#8) ∧
    le16 0x40#8 0x21#8 = crc16 [0x01#8, 0x03#8] ∧
    le16 0xBB#8 0xCD#8 = crc16 [0x01#8, 0x04#8, 0x04#8, 0x00#8, 0x64#8, 0x00#8, 0xC8#8] := by decide +kernel

theorem witness_ParseCommand : frameP1.length ≤ 65535 ∧ parse frameP1 = .ok readingP1 ∧ parse [] = .err .frameTooShort ∧
    ∀ rcv cmp, Err.frameTooShort ≠ .crcMismatch rcv cmp := ⟨by decide, by decide +kernel, by decide, nofun⟩

theorem witness_FlippedCrcBit : 4 ≤ frameP1.length ∧ receivedCrc frameP1 = crc16 (covered frameP1) ∧
    (7 = frameP1.length - 2 ∧ 8 = frameP1.length - 1) ∧ 7 < 8 := by decide +kernel

theorem witness_SurplusZeroByte : parse frameP1 = .ok readingP1 ∧ frameP1.length % 2 = 1 := by decide +kernel

theorem witness_ResponseFramesParsed : (opened .parsing).ctlState = .parsing ∧ State.reset.ctlState ≠ .parsing := by
  decide

theorem witness_CtlCancelCommand : State.reset.ctlState = .idle ∧ (at_ .retryWait).ctlState = .retryWait ∧
    (at_ .pollSleep).ctlState = .pollSleep ∧ ¬ ((opened .receiving).ctlState = .idle ∨
      (opened .receiving).ctlState = .retryWait ∨ (opened .receiving).ctlState = .pollSleep) := by decide

theorem witness_ConnectOkEvent : (at_ .connecting).ctlState = .connecting ∧ (at_ .connecting).cfg = some cfgA ∧
    cfgLegal cfgA = true := by decide

theorem witness_ConnectFailureEvents : (at_ .connecting).ctlState = .connecting := rfl

theorem witness_SendEvents : (opened .sending).ctlState = .sending := rfl

/-- A chunk at either end of 0 to RX_MAX, and one byte more. -/
theorem witness_RxDataEvent : (opened .receiving).ctlState = .receiving ∧
    ¬ (opened .receiving).par.rxMax < (List.replicate 256 (0x00#8 : Byte)).length ∧
    (opened .receiving).par.rxMax < (List.replicate 257 (0x00#8 : Byte)).length ∧
    (List.replicate 257 (0x00#8 : Byte)).length ≤ 65535 := by decide +kernel

theorem witness_RxFailureEvents : (opened .receiving).ctlState = .receiving := rfl

theorem witness_DeadlineEvent : (opened .sending).ctlState = .sending ∧ (opened .sending).deadlineExpired = false ∧
    (opened .receiving).ctlState = .receiving ∧ (opened .receiving).deadlineExpired = false := by decide

theorem witness_TimerDoneEvent : (at_ .retryWait).cfg = some cfgA ∧ (at_ .retryWait).ctlState = .retryWait ∧
    (at_ .pollSleep).cfg = some cfgA ∧ (at_ .pollSleep).ctlState = .pollSleep := by decide

/-- One event that is out of place in each resting state: K5, K11, K17 (one byte more than RX_MAX), K20. -/
theorem witness_UnexpectedEventsStop :
    Instr.evSendOk.port = .event ∧ State.reset.ctlState = .idle ∧
    ((at_ .connecting).ctlState = .connecting ∧ Instr.evSendOk ≠ .evConnectOk ∧ Instr.evSendOk ≠ .evConnectRefused ∧
      Instr.evSendOk ≠ .evConnectError) ∧
    (({ opened .sending with deadlineExpired := true }).ctlState = .sending ∧ Instr.evDeadline ≠ .evSendOk ∧
      Instr.evDeadline ≠ .evSendError ∧ ¬ ({ opened .sending with deadlineExpired := true }).deadlineExpired = false) ∧
    ((opened .receiving).ctlState = .receiving ∧
      (∀ d, d.length ≤ (opened .receiving).par.rxMax → Instr.evRxData (List.replicate 257 0x00#8) ≠ .evRxData d) ∧
      Instr.evRxData (List.replicate 257 0x00#8) ≠ .evRxError) ∧
    ((at_ .retryWait).ctlState = .retryWait ∧ Instr.evSendOk ≠ .evTimerDone) := by
  refine ⟨rfl, rfl, by decide, by decide, ⟨rfl, ?_, nofun⟩, by decide⟩
  intro d hd he
  injection he with he
  rw [← he, List.length_replicate] at hd
  exact absurd hd (by decide)

theorem witness_StoppedIgnoresEvents : Instr.evTimerDone.port = .event ∧ (at_ .stopped).ctlState = .stopped := by decide

theorem witness_EventsWaitInTransientStates :
    transient (opened .success).ctlState = true ∧ (opened .success).pending = [] ∧
    ({ opened .success with pending := [.event [0x29#8]] }).pending = .event [0x29#8] :: [] ∧
    ({ opened .success with pending := [.host [0x12#8]] }).pending = .host [0x12#8] :: [] ∧
    decodeHost [0x12#8] = .ok .ctlStatus ∧
    nextIs (exec .ctlStatus (opened .success)) (fun _ => true) = true ∧
    Instr.evTimerDone.port = .event ∧
    nextIs (step { opened .success with pres := some (.ok readingP1), pending := [.event [0x29#8]] })
      (fun t => t.ctlState == .pollSleep) = true := by decide +kernel

theorem witness_ParsingInternalStep : (opened .parsing).ctlState = .parsing := rfl

theorem witness_InterpretingInternalStep : (opened .interpreting).ctlState = .interpreting ∧
    ({ opened .interpreting with pres := some (.ok readingP1) }).pres = some (.ok readingP1) ∧
    ({ opened .interpreting with pres := some (parse []) }).pres = some (parse []) ∧
    parse [] = .err .frameTooShort := by decide

theorem witness_SuccessInternalStep : (opened .success).ctlState = .success ∧
    ({ opened .success with pres := some (.ok readingP1) }).pres = some (.ok readingP1) ∧
    (opened .success).cfg = some cfgA ∧ (opened .success).cancelPending = false ∧
    ({ opened .success with cancelPending := true }).cancelPending = true := by decide

/-- Attempt 2 of 3 and attempt 3 of 3. -/
theorem witness_RetryableFailureInternalStep : (opened .retryableFailure).ctlState = .retryableFailure ∧
    (opened .retryableFailure).cfg = some cfgA ∧
    ({ opened .retryableFailure with attempt := 2#32 }).attempt.toNat < cfgA.maxAttempts.toNat ∧
    cfgA.maxAttempts.toNat ≤ ({ opened .retryableFailure with attempt := 3#32 }).attempt.toNat ∧
    ({ opened .retryableFailure with lastError := some .receiveTimeout }).lastError = some .receiveTimeout := by decide

theorem witness_FatalFailureInternalStep : (at_ .fatalFailure).ctlState = .fatalFailure ∧
    (at_ .fatalFailure).cfg = some cfgA := by decide

theorem witness_FailureEntry : (2 ≤ (errCode .frameTooShort).toNat ∧ (errCode .frameTooShort).toNat ≤ 7) ∧
    (2 ≤ (errCode .transportError).toNat ∧ (errCode .transportError).toNat ≤ 7) ∧ errCode .connectionRefused = 8#8 ∧
    errCode .invalidParameter = 1#8 := by decide

/-! The invariant holds in a state far from reset: in RECEIVING, the deadline expired, a cancellation latched; in SUCCESS
with a reading to report; and in FATAL_FAILURE. -/

theorem buildCfg_cfgA : buildCfg cfgA = .ok requestB2 := by decide +kernel

theorem witness_Inv_receiving : Inv { opened .receiving with
    rxBuf := [0x01#8, 0x04#8], deadlineExpired := true, cancelPending := true } := by
  constructor
  case request_built => exact ⟨rfl, fun f hf => ⟨cfgA, rfl, by cases hf; exact buildCfg_cfgA⟩⟩
  all_goals first | decide +kernel | exact nofun

theorem witness_Inv_success : Inv { opened .success with pres := some (.ok readingP1) } := by
  constructor
  case request_built => exact ⟨rfl, fun f hf => ⟨cfgA, rfl, by cases hf; exact buildCfg_cfgA⟩⟩
  case success_result => exact fun _ => ⟨_, rfl⟩
  all_goals first | decide +kernel | exact nofun

theorem witness_Inv_fatal : Inv { at_ .fatalFailure with lastError := some .connectionRefused } := by
  constructor
  case request_built => exact ⟨rfl, nofun⟩
  all_goals first | decide +kernel | exact nofun

theorem witness_InternalStepsSettle : Inv { opened .success with pres := some (.ok readingP1) } ∧
    transient ({ opened .success with pres := some (.ok readingP1) }).ctlState = true ∧
    Inv { at_ .fatalFailure with lastError := some .connectionRefused } ∧
    ({ at_ .fatalFailure with lastError := some .connectionRefused }).ctlState = .fatalFailure :=
  ⟨witness_Inv_success, rfl, witness_Inv_fatal, rfl⟩

theorem witness_StepRunsDecoded :
    decodeHost [0x12#8] = .ok .ctlStatus ∧ nextIs (exec .ctlStatus .reset) (fun _ => true) = true ∧
    decodeHost [0x03#8] = .ok .raReset ∧
    refusedIs (exec .raReset (opened .receiving)) .illegalState = true ∧ decodeEvent [0x21#8] = .ok .evConnectRefused ∧
    transient (at_ .connecting).ctlState = false ∧
    ({ at_ .connecting with pending := [.event [0x20#8]] }).pending = .event [0x20#8] :: [] ∧
    (opened .parsing).ctlState = .parsing ∧ (opened .parsing).pending = [] ∧
    ({ opened .parsing with pending := [.internal] }).pending = .internal :: [] ∧
    decodeResponse (raExtract Config.ExtractMode.wholeBuffer frameP1) =
      .ok (.rspReadInputRegisters 1#8 4#8 [0x00#8, 0x64#8, 0x00#8, 0xC8#8] 0xBB#8 0xCD#8) ∧
    (at_ .connecting).cfg = some cfgA ∧ buildCfg cfgA = .ok requestB2 ∧
    decodeRequest requestB2 = .ok (.reqReadInputRegisters 1#8 0#16 2#16 0x71#8 0xCB#8) := by decide +kernel

theorem witness_InvAtReset : Config.Params.legal { rxMax := 1, rxBufCap := 260, extractMode := .truncate } = true ∧
    Config.Params.legal { rxMax := 65535, rxBufCap := 65794, extractMode := .wholeBuffer } = true := by decide

theorem witness_StepKeepsInv : Inv { opened .receiving with
    rxBuf := [0x01#8, 0x04#8], deadlineExpired := true, cancelPending := true } := witness_Inv_receiving

/-- A step that goes on and emits something. -/
theorem witness_OutAppendOnly : nextIs (step { at_ .connecting with pending := [.event [0x20#8]] })
    (fun t => t.ctlState == .sending && t.out != [connectA]) = true := by decide +kernel

theorem witness_OneResponsePerCommand :
    ({ State.reset with pending := [.host [0x12#8]] }).pending = .host [0x12#8] :: [] ∧
    refusedArrival .reset (.host [0x12#8]) = false ∧ refusedArrival .reset (.host [0x06#8]) = true ∧
    (∀ w rest, ({ at_ .connecting with pending := [.event [0x21#8]] }).pending ≠ .host w :: rest) ∧
    nextIs (step { at_ .connecting with pending := [.event [0x21#8]] }) (fun _ => true) = true :=
  ⟨rfl, rfl, rfl, nofun, by decide +kernel⟩

/-- A step under a configuration, and the step that writes it. -/
theorem witness_ConfigurationWrittenOnce :
    (at_ .connecting).cfg = some cfgA ∧ (at_ .connecting).ctlState ≠ .idle ∧
    nextIs (step { at_ .connecting with pending := [.event [0x21#8]] }) (fun t => t.cfg == some cfgA) = true ∧
    nextIs (step { State.reset with pending :=
      [.host (encode (.ctlStart 1#32 4#32 0#32 2#32 3#32 1000#32 500#32 2000#32 cfgA.endpoint))] })
      (fun t => t.cfg != State.reset.cfg) = true := by decide +kernel

theorem witness_StoppedIsTerminal : (at_ .stopped).ctlState = .stopped ∧
    ({ at_ .stopped with cancelPending := true }).cancelPending = true ∧
    nextIs (step { at_ .stopped with cancelPending := true, pending := [.event [0x29#8]] })
      (fun t => t.ctlState == .stopped) = true := by decide +kernel

/-- K31 and K34: the two kinds of cancelled stop. -/
theorem witness_CancelOnlyAtCheckpoints : (at_ .pollSleep).ctlState ≠ .stopped ∧ (opened .success).ctlState ≠ .stopped ∧
    nextIs (step { at_ .pollSleep with pending := [.host [0x03#8], .host [0x11#8]] })
      (fun t => t.ctlState == .stopped && t.stopReason == .cancelled) = true ∧
    nextIs (step { opened .success with pres := some (.ok readingP1), cancelPending := true })
      (fun t => t.ctlState == .stopped && t.stopReason == .cancelled) = true := by decide +kernel

/-- K25: the step that enters POLL_SLEEP. -/
theorem witness_OneReportPerCycle : (opened .success).ctlState ≠ .pollSleep ∧
    nextIs (step { opened .success with pres := some (.ok readingP1) })
      (fun t => t.ctlState == .pollSleep && ((emitted (opened .success) t).filter isReport).length == 1) = true := by
  decide +kernel

/-- R296 item 1: three attempts, the first connecting. -/
theorem witness_AttemptCeiling :
    (at_ .connecting).ctlState = .connecting ∧ (at_ .connecting).cfg = some cfgA ∧ cfgLegal cfgA = true ∧
    (at_ .connecting).attempt.toNat + 2 = cfgA.maxAttempts.toNat ∧ (at_ .connecting).connOpen = false ∧
    (at_ .connecting).deadlineExpired = false ∧ (at_ .connecting).cancelPending = false ∧
    ({ at_ .connecting with pending := timeoutScript 2 }).pending = timeoutScript 2 := by decide

theorem witness_RefusalShortCircuit :
    (at_ .connecting).ctlState = .connecting ∧ (at_ .connecting).cfg = some cfgA ∧ (at_ .connecting).connOpen = false ∧
    (at_ .connecting).cancelPending = false ∧
    ({ at_ .connecting with pending := [bareEvent 0x21#8] }).pending = [bareEvent 0x21#8] := by decide

theorem witness_ReceiveNeverOverflows : Inv { opened .receiving with
      rxBuf := [0x01#8, 0x04#8], deadlineExpired := true, cancelPending := true } ∧
    (opened .receiving).ctlState = .receiving ∧
    (List.replicate 256 (0x00#8 : Byte)).length ≤ (opened .receiving).par.rxMax :=
  ⟨witness_Inv_receiving, rfl, by decide +kernel⟩

theorem witness_PureCommandsCommute :
    nextIs (internalStep { opened .success with pres := some (.ok readingP1) }) (fun t => t.ctlState == .pollSleep) = true := by
  decide +kernel

end Sys2Proof.Tests
end

section
/-! PROOFS. What a step does with each arrival, how the wire decoder reads a request frame back, and from these: a step
runs the decoded instruction (O43). -/

namespace Sys2Proof.Machine

/-! ### A step by what is pending -/

theorem hostStep_decoded {w : List Byte} {i : Instr} (hd : decodeHost w = .ok i) (s : State) :
    hostStep w s = exec i s := by simp [hostStep, hd]

theorem eventStep_decoded {w : List Byte} {i : Instr} (hd : decodeEvent w = .ok i) (s : State) :
    eventStep w s = exec i s := by simp [eventStep, hd]

theorem step_pending_nil {s : State} (hp : s.pending = []) : step s = internalStep s := by
  simp only [step, takeNext, hp, takeFrom]
  rw [← hp]

theorem step_pending_internal {s : State} {rest : List Arrival} (hp : s.pending = .internal :: rest) :
    step s = internalStep { s with pending := rest } := by
  simp only [step, takeNext, hp, takeFrom]

theorem step_event_resting {s : State} {w : List Byte} {rest : List Arrival} (hp : s.pending = .event w :: rest)
    (ht : transient s.ctlState = false) : step s = eventStep w { s with pending := rest } := by
  simp [step, takeNext, hp, takeFrom, ht]

theorem internalStep_parsing_decoded {s : State} {i : Instr} (hs : s.ctlState = .parsing)
    (hd : decodeResponse (frameToParse s) = .ok i) : internalStep s = exec i s := by
  simp [internalStep, hs, parsingStep, hd]

/-! ### Request frames -/

theorem decodeRequest_encode_readHolding (slave : Byte) (start count : Half) (lo hi : Byte) :
    decodeRequest (encode (.reqReadHoldingRegisters slave start count lo hi)) =
      .ok (.reqReadHoldingRegisters slave start count lo hi) := by
  simp [encode, requestBody, bytes16, decodeRequest]

theorem decodeRequest_encode_readInput (slave : Byte) (start count : Half) (lo hi : Byte) :
    decodeRequest (encode (.reqReadInputRegisters slave start count lo hi)) =
      .ok (.reqReadInputRegisters slave start count lo hi) := by
  simp [encode, requestBody, bytes16, decodeRequest]

/-- Where `build` succeeds on a stored configuration, legal or not, the function code is one of the two and the frame
is that of its fields (spec 41_frame_builder.md R170, R171). -/
theorem buildCfg_ok {c : Cfg} {f : List Byte} (hb : buildCfg c = .ok f) :
    (c.func = 0x03#8 ∨ c.func = 0x04#8) ∧
      f = requestBody c.slave c.func c.start c.count ++ crcBytes (requestBody c.slave c.func c.start c.count) := by
  unfold buildCfg build at hb
  split at hb
  · rename_i hv
    obtain ⟨-, -, hfc, -⟩ := (validReq_iff _ _ _ _).1 hv
    cases hb
    have func_eq (b : Byte) (hn : Int.ofNat c.func.toNat = Int.ofNat b.toNat) : c.func = b :=
      BitVec.eq_of_toNat_eq (Int.ofNat.inj hn)
    exact ⟨hfc.imp (func_eq 0x03#8) (func_eq 0x04#8), by simp⟩
  · cases hb

/-- A built request frame decodes to the request of its configuration's fields, under its function code. -/
theorem decodeRequest_built {c : Cfg} {f : List Byte} {i : Instr} (hb : buildCfg c = .ok f)
    (hd : decodeRequest f = .ok i) :
    ∃ lo hi, encode i = f ∧
      ((c.func = 0x03#8 ∧ i = .reqReadHoldingRegisters c.slave c.start c.count lo hi) ∨
       (c.func = 0x04#8 ∧ i = .reqReadInputRegisters c.slave c.start c.count lo hi)) := by
  obtain ⟨hfc, hf⟩ := buildCfg_ok hb
  obtain ⟨lo, hi, hcrc⟩ : ∃ lo hi, crcBytes (requestBody c.slave c.func c.start c.count) = [lo, hi] := ⟨_, _, rfl⟩
  rw [hcrc] at hf
  refine ⟨lo, hi, ?_⟩
  rcases hfc with h3 | h4
  · have he : encode (.reqReadHoldingRegisters c.slave c.start c.count lo hi) = f := by rw [hf, h3]; rfl
    rw [← he, decodeRequest_encode_readHolding] at hd
    cases hd
    exact ⟨he, .inl ⟨h3, rfl⟩⟩
  · have he : encode (.reqReadInputRegisters c.slave c.start c.count lo hi) = f := by rw [hf, h4]; rfl
    rw [← he, decodeRequest_encode_readInput] at hd
    cases hd
    exact ⟨he, .inr ⟨h4, rfl⟩⟩

/-- EV_CONNECT_OK in CONNECTING sends the request built of the configuration (spec 44_controller.md R265). -/
theorem exec_evConnectOk_built {s : State} {c : Cfg} {f : List Byte} (hs : s.ctlState = .connecting)
    (hc : s.cfg = some c) (hb : buildCfg c = .ok f) : exec .evConnectOk s = .next (openAndSend c f s) := by
  have hk : exec .evConnectOk s = _ := takeEvent_accepted (by rw [hs]; rfl) (by simp [accepts, hs])
  rw [hk, withCfg_some hc, hb]

theorem sendRequest_built {s : State} {c : Cfg} {f : List Byte} (hs : s.ctlState = .connecting)
    (hc : s.cfg = some c) (hb : buildCfg c = .ok f) :
    sendRequest c.slave c.func c.start c.count f s = .next (openAndSend c f s) := by
  have hb' : build (Int.ofNat c.slave.toNat) (Int.ofNat c.func.toNat) (Int.ofNat c.start.toNat)
      (Int.ofNat c.count.toNat) = .ok f := hb
  rw [sendRequest, if_pos hs, withCfg_some hc, if_pos hb']

/-- Running a built request frame as an instruction of the table sends that frame (log 9). -/
theorem exec_request_built {s : State} {c : Cfg} {f : List Byte} {i : Instr} (hs : s.ctlState = .connecting)
    (hc : s.cfg = some c) (hb : buildCfg c = .ok f) (hd : decodeRequest f = .ok i) :
    exec i s = .next (openAndSend c f s) := by
  have hsend := sendRequest_built hs hc hb
  obtain ⟨lo, hi, rfl, ⟨hfc, rfl⟩ | ⟨hfc, rfl⟩⟩ := decodeRequest_built hb hd
  · rwa [hfc] at hsend
  · rwa [hfc] at hsend

/-! ### The decoded instruction is what runs -/

theorem step_host_decoded {s : State} {w : List Byte} {rest : List Arrival} {i : Instr}
    (hp : s.pending = .host w :: rest) (hd : decodeHost w = .ok i)
    (hr : ∀ r, exec i { s with pending := rest } ≠ .refused r) : step s = exec i { s with pending := rest } := by
  rw [← hostStep_decoded hd] at hr ⊢
  exact step_host hp hr

/-- A refused command is passed over, its response recorded (spec 60_exceptions.md R337; log 8). -/
theorem step_host_decoded_refused {s : State} {w : List Byte} {rest : List Arrival} {i : Instr} {r : Refusal}
    (hp : s.pending = .host w :: rest) (hd : decodeHost w = .ok i)
    (hr : exec i { s with pending := rest } = .refused r) :
    ∃ a, refusalResponse r = some a ∧ step s = step { s with pending := rest, resp := s.resp ++ [a] } := by
  rw [← hostStep_decoded hd] at hr
  obtain ⟨a, ha, -⟩ := hostStep_refused_response hr
  exact ⟨a, ha, step_refused hp hr ha⟩

theorem step_event_decoded {s : State} {w : List Byte} {rest : List Arrival} {i : Instr}
    (hp : s.pending = .event w :: rest) (ht : transient s.ctlState = false) (hd : decodeEvent w = .ok i) :
    step s = exec i { s with pending := rest } := by
  rw [step_event_resting hp ht, eventStep_decoded hd]

/-- The table's request row: EV_CONNECT_OK runs the frame `build` makes of the configuration (log 9). -/
theorem step_connectOk_decoded {s : State} {rest : List Arrival} {c : Cfg} {f : List Byte} {i : Instr}
    (hs : s.ctlState = .connecting) (hp : s.pending = .event [0x20#8] :: rest) (hc : s.cfg = some c)
    (hb : buildCfg c = .ok f) (hd : decodeRequest f = .ok i) : step s = exec i { s with pending := rest } := by
  have hw : decodeEvent [0x20#8] = .ok .evConnectOk := rfl
  calc step s = exec .evConnectOk { s with pending := rest } := step_event_decoded hp (by rw [hs]; rfl) hw
    _ = .next (openAndSend c f { s with pending := rest }) := exec_evConnectOk_built hs hc hb
    _ = exec i { s with pending := rest } := (exec_request_built (s := { s with pending := rest }) hs hc hb hd).symm

/-- Settles O43, one lemma per place a word stands in: host port, event port, receive buffer, request frame. -/
theorem stepRunsDecoded : Obligations.StepRunsDecoded := by
  refine ⟨fun s w rest i hp hd => ⟨step_host_decoded hp hd, fun r => step_host_decoded_refused hp hd⟩,
    fun s w rest i hp ht hd => step_event_decoded hp ht hd, fun s rest i hs hp hd => ?_, fun s i hs hp hd => ?_,
    fun s rest c f i hs hp hc hb hd => step_connectOk_decoded hs hp hc hb hd⟩
  · rw [step_pending_internal hp]
    exact internalStep_parsing_decoded hs hd
  · rw [step_pending_nil hp]
    exact internalStep_parsing_decoded hs hd

end Sys2Proof.Machine
end

section
/-! PROOFS. What every step only adds to (O47, O49), and what it leaves in STOPPED (O50). -/

namespace Sys2Proof.Machine

open Sys2Proof.Safety

/-! ### What an operation continues -/

/-- `t` goes on from `s`: the parameters and the configuration are kept, `out` is only appended to (spec 10_state.md
R45), and the cancel latch is not cleared (R41). -/
structure Continues (s t : State) : Prop where
  par : t.par = s.par
  cfg : t.cfg = s.cfg
  out : s.out <+: t.out
  cancel : s.cancelPending = true → t.cancelPending = true

/-- `t` goes on from `s` within one attempt or its wait: the attempt is not counted again and the block is not
stopped. -/
structure SameAttempt (s t : State) : Prop extends Continues s t where
  attempt : t.attempt = s.attempt
  stopReason : t.stopReason = s.stopReason

theorem Continues.trans {s t u : State} (h : Continues s t) (k : Continues t u) : Continues s u :=
  ⟨k.par.trans h.par, k.cfg.trans h.cfg, h.out.trans k.out, fun hs => k.cancel (h.cancel hs)⟩

theorem SameAttempt.trans {s t u : State} (h : SameAttempt s t) (k : SameAttempt t u) : SameAttempt s u :=
  ⟨h.toContinues.trans k.toContinues, k.attempt.trans h.attempt, k.stopReason.trans h.stopReason⟩

/-- Writing only fields that belong to no more than the attempt keeps the attempt. -/
theorem sameAttempt_fields (s : State) (ctl : CtlState) (e : Option Err) (b : List Byte) (q : Option (List Byte))
    (p : Option (Result Reading)) (isOpen expired : Bool) (r : List HostResponse) (pend : List Arrival) :
    SameAttempt s { s with
      ctlState := ctl, lastError := e, rxBuf := b, req := q, pres := p, connOpen := isOpen,
      deadlineExpired := expired, resp := r, pending := pend } :=
  ⟨⟨rfl, rfl, List.prefix_rfl, id⟩, rfl, rfl⟩

theorem sameAttempt_refl (s : State) : SameAttempt s s := sameAttempt_fields s ..
theorem sameAttempt_goto (c : CtlState) (s : State) : SameAttempt s (goto c s) := sameAttempt_fields s ..
theorem sameAttempt_respond (r : HostResponse) (s : State) : SameAttempt s (respond r s) :=
  sameAttempt_fields s ..
theorem sameAttempt_appendRx (d : List Byte) (s : State) : SameAttempt s (appendRx d s) :=
  sameAttempt_fields s ..
theorem sameAttempt_clearRx (s : State) : SameAttempt s (clearRx s) := sameAttempt_fields s ..
theorem sameAttempt_wait (i : Instr) (s : State) : SameAttempt s (wait i s) := sameAttempt_fields s ..
theorem sameAttempt_parseFrame (f : List Byte) (s : State) : SameAttempt s (parseFrame f s) :=
  sameAttempt_fields s ..

theorem sameAttempt_emit (w : OutWord) (s : State) : SameAttempt s (emit w s) :=
  ⟨⟨rfl, rfl, List.prefix_append _ _, id⟩, rfl, rfl⟩

theorem sameAttempt_askReceive (s : State) : SameAttempt s (askReceive s) := sameAttempt_emit _ s

theorem sameAttempt_endAttempt (s : State) : SameAttempt s (endAttempt s) :=
  ⟨⟨by simp, by simp, by simp, by simp⟩, by simp, by simp⟩

theorem sameAttempt_openAndSend (c : Cfg) (f : List Byte) (s : State) : SameAttempt s (openAndSend c f s) :=
  ⟨⟨rfl, rfl, by simp, id⟩, rfl, rfl⟩

theorem continues_stop (r : StopReason) (s : State) : Continues s (stop r s) :=
  ⟨by simp, by simp, by simp, by simp⟩

theorem continues_beginAttempt (c : Cfg) (s : State) : Continues s (beginAttempt c s) :=
  ⟨rfl, rfl, List.prefix_append _ _, id⟩

theorem continues_beginCycle (c : Cfg) (s : State) : Continues s (beginCycle c s) :=
  ⟨rfl, rfl, List.prefix_append _ _, id⟩

theorem continues_unexpected (s : State) : Continues s (unexpected s) := by
  by_cases h : s.ctlState = .stopped
  · rw [unexpected_stopped h]; exact (sameAttempt_refl s).toContinues
  · rw [unexpected_running h]; exact continues_stop _ s

theorem continues_raiseError (e : Err) (s : State) : Continues s (raiseError e s) := by
  cases h : errClass e with
  | retryable => rw [raiseError_retryable s h]; exact (sameAttempt_fields s ..).toContinues
  | fatal => rw [raiseError_fatal s h]; exact (sameAttempt_fields s ..).toContinues
  | constructionTime => rw [raiseError_construction s h]; exact continues_stop _ s

theorem continues_enterRetryWait (c : Cfg) (s : State) : Continues s (enterRetryWait c s) := by
  rcases enterRetryWait_cases c s with ⟨-, h⟩ | ⟨-, h⟩
  · rw [h]; exact continues_stop _ s
  · rw [h]; exact ((sameAttempt_emit _ s).trans (sameAttempt_goto _ _)).toContinues

theorem continues_enterPollSleep (c : Cfg) (s : State) : Continues s (enterPollSleep c s) := by
  rcases enterPollSleep_cases c s with ⟨-, h⟩ | ⟨-, h⟩
  · rw [h]; exact continues_stop _ s
  · rw [h]; exact ((sameAttempt_emit _ s).trans (sameAttempt_goto _ _)).toContinues

/-! ### What a step continues -/

/-- Every internal step (spec 44_controller.md R274 to R279). -/
theorem internalStep_continues {s t : State} (h : internalStep s = .next t) : Continues s t := by
  cases ht : transient s.ctlState
  · rw [internalStep_resting ht] at h
    cases h; exact (sameAttempt_refl s).toContinues
  · rcases internalStep_next ht h with ⟨-, rfl⟩ | ⟨-, h⟩ | ⟨-, h⟩ | ⟨-, h⟩ | ⟨-, h⟩
    · exact (sameAttempt_parseFrame _ s).toContinues
    · obtain ⟨r, -, rfl⟩ | ⟨e, -, rfl⟩ := interpretStep_next h
      · exact (sameAttempt_goto _ s).toContinues
      · exact continues_raiseError e s
    · obtain ⟨r, c, -, -, rfl⟩ := successStep_next h
      exact ((sameAttempt_endAttempt s).trans (sameAttempt_emit _ _)).toContinues.trans (continues_enterPollSleep c _)
    · obtain ⟨c, -, ⟨-, rfl⟩ | ⟨-, e, -, rfl⟩⟩ := retryableStep_next h
      · exact (sameAttempt_endAttempt s).toContinues.trans (continues_enterRetryWait c _)
      · exact ((sameAttempt_endAttempt s).trans (sameAttempt_emit _ _)).toContinues.trans (continues_enterPollSleep c _)
    · obtain ⟨c, -, rfl⟩ := fatalStep_next h
      exact ((sameAttempt_endAttempt s).trans (sameAttempt_emit _ _)).toContinues.trans (continues_enterPollSleep c _)

/-- An event waits or is unexpected, or has its effect. -/
theorem takeEvent_continues {i : Instr} {s t : State} {e : Answer} (h : takeEvent i s e = .next t)
    (effect : e = .next t → Continues s t) : Continues s t := by
  rcases takeEvent_next h with ⟨-, rfl⟩ | ⟨-, -, he⟩ | ⟨-, -, rfl⟩
  · exact (sameAttempt_wait i s).toContinues
  · exact effect he
  · exact continues_unexpected s

/-- An event whose whole effect is a failure (spec 44_controller.md R264, R266, R270, R271, R273). -/
theorem takeEvent_raiseError_continues {i : Instr} {s t : State} {e : Err}
    (h : takeEvent i s (.next (raiseError e s)) = .next t) : Continues s t :=
  takeEvent_continues h fun he => by cases he; exact continues_raiseError e s

theorem exec_event_continues {i : Instr} {s t : State} (hi : i.port = .event) (h : exec i s = .next t) :
    Continues s t := by
  cases i <;> cases hi
  case evConnectOk =>
    refine takeEvent_continues h fun he => ?_
    obtain ⟨c, -, he⟩ := withCfg_next he
    split at he
    · cases he; exact (sameAttempt_openAndSend c _ s).toContinues
    · cases he
  case evConnectRefused => exact takeEvent_raiseError_continues h
  case evConnectError => exact takeEvent_raiseError_continues h
  case evSendOk =>
    refine takeEvent_continues h fun he => ?_
    split at he <;> cases he
    · exact continues_raiseError _ s
    · exact ((sameAttempt_askReceive s).trans (sameAttempt_goto _ _)).toContinues
  case evSendError => exact takeEvent_raiseError_continues h
  case evRxData d =>
    refine takeEvent_continues h fun he => ?_
    have happ := sameAttempt_appendRx d s
    split at he
    · cases he; exact continues_raiseError _ s
    · dsimp only at he
      repeat' split at he
      all_goals cases he
      · exact (happ.trans (sameAttempt_goto _ _)).toContinues
      · exact happ.toContinues.trans (continues_raiseError _ _)
      · exact (happ.trans (sameAttempt_askReceive _)).toContinues
  case evRxError => exact takeEvent_raiseError_continues h
  case evRxTimeout => exact takeEvent_raiseError_continues h
  case evDeadline =>
    refine takeEvent_continues h fun he => ?_
    cases he; exact (sameAttempt_fields s ..).toContinues
  case evTimerDone =>
    refine takeEvent_continues h fun he => ?_
    obtain ⟨c, -, he⟩ := withCfg_next he
    split at he <;> cases he
    · exact continues_beginAttempt c s
    · exact continues_beginCycle c s

/-- A CTL_START that is taken: from IDLE it stores a configuration and connects under it (spec 44_controller.md
R256). -/
structure StartsUnder (c : Cfg) (s t : State) : Prop where
  idle : s.ctlState = .idle
  connecting : t.ctlState = .connecting
  continues : Continues { s with cfg := some c } t

/-- A host command goes on from the state, unless it is the CTL_START that stores the configuration. -/
theorem exec_host_continues {i : Instr} {s t : State} (hi : i.port = .host) (h : exec i s = .next t) :
    Continues s t ∨ ((∃ a b c d m u r p ep, i = .ctlStart a b c d m u r p ep) ∧ ∃ cfg, StartsUnder cfg s t) := by
  cases i <;> cases hi
  case crc16 => cases h; exact .inl (sameAttempt_respond _ s).toContinues
  case build =>
    simp only [exec, execBuild] at h
    split at h <;> cases h <;> exact .inl (sameAttempt_respond _ s).toContinues
  case raReset =>
    simp only [exec, execRaReset] at h
    split at h <;> cases h
    exact .inl ((sameAttempt_clearRx s).trans (sameAttempt_respond _ _)).toContinues
  case raFeed d =>
    simp only [exec, execRaFeed] at h
    repeat' split at h
    all_goals cases h
    · exact .inl (sameAttempt_respond _ s).toContinues
    · exact .inl ((sameAttempt_appendRx d s).trans (sameAttempt_respond _ _)).toContinues
  case parse =>
    simp only [exec, execParse] at h
    split at h <;> cases h <;> exact .inl (sameAttempt_respond _ s).toContinues
  case ctlStart =>
    simp only [exec, execCtlStart] at h
    repeat' split at h
    all_goals cases h
    · exact .inr ⟨⟨_, _, _, _, _, _, _, _, _, rfl⟩, _, not_not.1 ‹_›, rfl,
        (sameAttempt_respond _ _).toContinues.trans (continues_beginCycle _ _)⟩
    · exact .inl ((sameAttempt_respond _ s).toContinues.trans (continues_raiseError _ _))
  case ctlCancel =>
    have latch : Continues s { s with cancelPending := true } := ⟨rfl, rfl, List.prefix_rfl, fun _ => rfl⟩
    have answer := latch.trans (sameAttempt_respond (.ok []) _).toContinues
    simp only [exec, execCtlCancel] at h
    split at h <;> cases h
    · exact .inl (answer.trans (continues_stop _ _))
    · exact .inl answer
  case ctlStatus => cases h; exact .inl (sameAttempt_respond _ s).toContinues

/-! ### What the two ports decode to -/

theorem decodeBare_ok {i j : Instr} {w : List Byte} (h : decodeBare i w = .ok j) : j = i := by
  unfold decodeBare at h
  split at h <;> cases h
  rfl

/-- The length field of a blob is 16 bits wide (spec 30_encoding.md R110). -/
theorem decodeBlob_ok {mk : List Byte → Instr} {w : List Byte} {i : Instr} (h : decodeBlob mk w = .ok i) :
    ∃ d, i = mk d ∧ d.length ≤ 65535 := by
  unfold decodeBlob at h
  split at h
  · split at h
    · rename_i hd
      cases h; exact ⟨_, rfl, hd ▸ half_toNat_le _⟩
    · cases h
  · cases h

theorem decodeBuild_ok {w : List Byte} {i : Instr} (h : decodeBuild w = .ok i) : ∃ a b c d, i = .build a b c d := by
  unfold decodeBuild at h
  split at h <;> cases h
  exact ⟨_, _, _, _, rfl⟩

theorem decodeStart_ok {w : List Byte} {i : Instr} (h : decodeStart w = .ok i) :
    ∃ a b c d m u r p ep, i = .ctlStart a b c d m u r p ep ∧ ep.length ≤ 65535 := by
  unfold decodeStart at h
  split at h
  · split at h
    · rename_i he
      cases h; exact ⟨_, _, _, _, _, _, _, _, _, rfl, he ▸ half_toNat_le _⟩
    · cases h
  · cases h

/-- The host port decodes to well-formed host commands only (spec 30_encoding.md R110, R111). -/
theorem decodeHost_ok {w : List Byte} {i : Instr} (h : decodeHost w = .ok i) :
    i.port = .host ∧ i.wellFormed = true := by
  unfold decodeHost at h
  split at h
  · cases h
  · split_ifs at h
    · obtain ⟨d, rfl, hd⟩ := decodeBlob_ok h; exact ⟨rfl, decide_eq_true hd⟩
    · obtain ⟨a, b, c, d, rfl⟩ := decodeBuild_ok h; exact ⟨rfl, rfl⟩
    · cases decodeBare_ok h; exact ⟨rfl, rfl⟩
    · obtain ⟨d, rfl, hd⟩ := decodeBlob_ok h; exact ⟨rfl, decide_eq_true hd⟩
    · obtain ⟨d, rfl, hd⟩ := decodeBlob_ok h; exact ⟨rfl, decide_eq_true hd⟩
    · obtain ⟨a, b, c, d, m, u, r, p, ep, rfl, hep⟩ := decodeStart_ok h; exact ⟨rfl, decide_eq_true hep⟩
    · cases decodeBare_ok h; exact ⟨rfl, rfl⟩
    · cases decodeBare_ok h; exact ⟨rfl, rfl⟩

/-- The event port decodes to events only (spec 30_encoding.md R121). -/
theorem decodeEvent_ok {w : List Byte} {i : Instr} (h : decodeEvent w = .ok i) : i.port = .event := by
  unfold decodeEvent at h
  split at h
  · cases h
  · split_ifs at h
    · cases decodeBare_ok h; rfl
    · cases decodeBare_ok h; rfl
    · cases decodeBare_ok h; rfl
    · cases decodeBare_ok h; rfl
    · cases decodeBare_ok h; rfl
    · obtain ⟨d, rfl, -⟩ := decodeBlob_ok h; rfl
    · cases decodeBare_ok h; rfl
    · cases decodeBare_ok h; rfl
    · cases decodeBare_ok h; rfl
    · cases decodeBare_ok h; rfl

theorem eventStep_continues {w : List Byte} {s t : State} (h : eventStep w s = .next t) : Continues s t := by
  unfold eventStep at h
  split at h
  · exact exec_event_continues (decodeEvent_ok ‹_›) h
  · cases h; exact continues_unexpected s

/-- Behind refused host words at most, the next word offered is a CTL_START. -/
def StartOffered (s : State) : Prop :=
  ∃ before w rest a b c d m u r p ep, s.pending = before ++ .host w :: rest ∧
    before.all (refusedArrival s) = true ∧ decodeHost w = .ok (.ctlStart a b c d m u r p ep)

theorem startOffered_of_passed {s : State} {w : List Byte} {rest : List Arrival} {a : HostResponse}
    (hp : s.pending = .host w :: rest) (hr : refusedArrival s (.host w) = true)
    (h : StartOffered (respond a { s with pending := rest })) : StartOffered s := by
  obtain ⟨before, w', rest', a', b, c, d, m, u, r, p, ep, hrest, hall, hd⟩ := h
  have hsame : refusedArrival (respond a { s with pending := rest }) = refusedArrival s :=
    funext (refusedArrival_congr s (s.resp ++ [a]) rest)
  rw [hsame] at hall
  have hrest : rest = before ++ .host w' :: rest' := hrest
  exact ⟨.host w :: before, w', rest', a', b, c, d, m, u, r, p, ep, by rw [hp, hrest]; rfl, by simp [hr, hall], hd⟩

/-- A step goes on from the state, unless it takes the CTL_START that stores the configuration. -/
theorem step_continues (s t : State) (h : step s = .next t) :
    Continues s t ∨ (StartOffered s ∧ ∃ cfg, StartsUnder cfg s t) := by
  revert t
  induction s using step_induction with
  | passes s w rest a hp hr he ih =>
    intro t h
    rw [he] at h
    rcases ih t h with hc | ⟨ho, cfg, hs⟩
    · exact .inl ((sameAttempt_fields s ..).toContinues.trans hc)
    · exact .inr ⟨startOffered_of_passed hp hr ho, cfg, hs.idle, hs.connecting,
        (sameAttempt_fields { s with cfg := some cfg } ..).toContinues.trans hs.continues⟩
  | takes s hn =>
    intro t h
    have took (rest : List Arrival) : Continues s { s with pending := rest } :=
      (sameAttempt_fields s ..).toContinues
    rcases step_cases s with ⟨-, he⟩ | ⟨w, rest, hp, -, he⟩ | ⟨w, rest, a, hp, hr, -⟩ | ⟨w, rest, -, -, he⟩ |
      ⟨w, rest, -, -, he⟩ | ⟨rest, -, he⟩
    · exact .inl (internalStep_continues (he ▸ h))
    · rw [he] at h
      unfold hostStep at h
      split at h
      · rename_i i hd
        rcases exec_host_continues (decodeHost_ok hd).1 h with hc | ⟨⟨a, b, c, d, m, u, r, p, ep, rfl⟩, cfg, hs⟩
        · exact .inl ((took rest).trans hc)
        · exact .inr ⟨⟨[], w, rest, a, b, c, d, m, u, r, p, ep, hp, rfl, hd⟩, cfg, hs.idle, hs.connecting,
            (sameAttempt_fields { s with cfg := some cfg } ..).toContinues.trans hs.continues⟩
      · cases h
    · rw [hn w rest hp] at hr; cases hr
    · exact .inl (internalStep_continues (he ▸ h))
    · exact .inl ((took rest).trans (eventStep_continues (he ▸ h)))
    · exact .inl ((took rest).trans (internalStep_continues (he ▸ h)))

/-- Settles O47: a step continues the state or starts under a configuration, and both only append to `out`. -/
theorem outAppendOnly : Obligations.OutAppendOnly := by
  intro s t h
  have hout : s.out <+: t.out := by
    rcases step_continues s t h with hc | ⟨-, cfg, hs⟩
    · exact hc.out
    · exact hs.continues.out
  obtain ⟨words, hw⟩ := hout
  exact ⟨words, hw.symm⟩

/-- Settles O49: a step that continues the state keeps `cfg`, and the only other step is the CTL_START taken in IDLE. -/
theorem configurationWrittenOnce : Obligations.ConfigurationWrittenOnce := by
  intro s t h
  rcases step_continues s t h with hc | ⟨ho, cfg, hs⟩
  · exact ⟨fun c hcfg _ => hc.cfg.trans hcfg, fun hne => absurd hc.cfg hne, hc.par⟩
  · exact ⟨fun c _ hidle => absurd hs.idle hidle, fun _ => ⟨hs.idle, hs.connecting, ho⟩, hs.continues.par⟩

/-! ### STOPPED -/

/-- `t` is stopped as `s` is, and nothing was emitted on the way. -/
structure StaysStopped (s t : State) : Prop where
  stopped : t.ctlState = .stopped
  reason : t.stopReason = s.stopReason
  silent : t.out = s.out

/-- Every event is ignored in STOPPED (spec 44_controller.md R290). -/
theorem exec_event_stopped {i : Instr} {s t : State} (hs : s.ctlState = .stopped) (hi : i.port = .event)
    (h : exec i s = .next t) : t = s := by
  have ignored {e : Answer} (h : takeEvent i s e = .next t) : t = s := by
    rcases takeEvent_next h with ⟨ht, -⟩ | ⟨-, ha, -⟩ | ⟨-, -, rfl⟩
    · rw [hs] at ht; cases ht
    · have hw := accepts_waiting ha
      rw [hs] at hw; simp at hw
    · exact unexpected_stopped hs
  cases i <;> cases hi <;> exact ignored h

theorem exec_host_stopped {i : Instr} {s t : State} (hs : s.ctlState = .stopped) (hi : i.port = .host)
    (h : exec i s = .next t) : StaysStopped s t := by
  cases i <;> cases hi
  case crc16 => cases h; exact ⟨hs, rfl, rfl⟩
  case build =>
    simp only [exec, execBuild] at h
    split at h <;> cases h <;> exact ⟨hs, rfl, rfl⟩
  case raReset =>
    simp only [exec, execRaReset, hs, hostOwnsBuffer, if_true] at h
    cases h; exact ⟨hs, rfl, rfl⟩
  case raFeed =>
    simp only [exec, execRaFeed, hs, hostOwnsBuffer, if_true] at h
    repeat' split at h
    all_goals cases h
    all_goals exact ⟨hs, rfl, rfl⟩
  case parse =>
    simp only [exec, execParse] at h
    split at h <;> cases h <;> exact ⟨hs, rfl, rfl⟩
  case ctlStart =>
    have hidle : s.ctlState ≠ .idle := by simp [hs]
    simp only [exec, execCtlStart, if_pos hidle] at h
    cases h
  case ctlCancel =>
    have hcp : cancelCheckpoint s.ctlState = false := by rw [hs]; rfl
    simp only [exec, execCtlCancel, hcp, Bool.false_eq_true, if_false] at h
    cases h; exact ⟨hs, rfl, rfl⟩
  case ctlStatus => cases h; exact ⟨hs, rfl, rfl⟩

theorem hostStep_stopped {w : List Byte} {s t : State} (hs : s.ctlState = .stopped) (h : hostStep w s = .next t) :
    StaysStopped s t := by
  unfold hostStep at h
  split at h
  · exact exec_host_stopped hs (decodeHost_ok ‹_›).1 h
  · cases h

theorem eventStep_stopped {w : List Byte} {s t : State} (hs : s.ctlState = .stopped) (h : eventStep w s = .next t) :
    t = s := by
  unfold eventStep at h
  split at h
  · exact exec_event_stopped hs (decodeEvent_ok ‹_›) h
  · cases h; exact unexpected_stopped hs

/-- STOPPED is terminal (spec 10_state.md R31). -/
theorem step_stopped (s t : State) (hs : s.ctlState = .stopped) (h : step s = .next t) : StaysStopped s t := by
  revert t
  induction s using step_induction with
  | passes s w rest a hp hr he ih =>
    intro t h
    obtain ⟨hstop, hreason, hout⟩ := ih hs t (he ▸ h)
    exact ⟨hstop, hreason, hout⟩
  | takes s hn =>
    intro t h
    have resting : transient s.ctlState = false := by rw [hs]; rfl
    have taken (rest : List Arrival) : ({ s with pending := rest }).ctlState = .stopped := hs
    have rests {u : State} (hu : u.ctlState = .stopped) (h : internalStep u = .next t) : u = t := by
      rw [internalStep_resting (by rw [hu]; rfl)] at h
      cases h; rfl
    rcases step_cases s with ⟨-, he⟩ | ⟨w, rest, -, -, he⟩ | ⟨w, rest, a, hp, hr, -⟩ | ⟨w, rest, -, ht, -⟩ |
      ⟨w, rest, -, -, he⟩ | ⟨rest, -, he⟩
    · cases rests hs (he ▸ h); exact ⟨hs, rfl, rfl⟩
    · obtain ⟨hstop, hreason, hout⟩ := hostStep_stopped (taken rest) (he ▸ h)
      exact ⟨hstop, hreason, hout⟩
    · rw [hn w rest hp] at hr; cases hr
    · rw [resting] at ht; cases ht
    · cases eventStep_stopped (taken rest) (he ▸ h); exact ⟨hs, rfl, rfl⟩
    · cases rests (taken rest) (he ▸ h); exact ⟨hs, rfl, rfl⟩

/-- Settles O50, from what a step in STOPPED leaves and from what every step continues. -/
theorem stoppedIsTerminal : Obligations.StoppedIsTerminal := by
  intro s t h
  refine ⟨fun hs => ?_, fun hcancel => ?_⟩
  · obtain ⟨hstop, hreason, hout⟩ := step_stopped s t hs h
    exact ⟨hstop, hreason, hout⟩
  · rcases step_continues s t h with hc | ⟨-, cfg, hs⟩
    · exact hc.cancel hcancel
    · exact hs.continues.cancel hcancel

end Sys2Proof.Machine
end

section
/-! PROOFS. The reset values (O44), and the outstanding operations as a program sees them (O58). -/

namespace Sys2Proof.Machine

open Sys2Proof.Safety

/-- Settles O44: the values stand in `State.resetWith`. -/
theorem resetValues : Obligations.ResetValues :=
  ⟨fun _ => ⟨rfl, rfl, rfl, rfl, rfl, rfl, rfl, rfl, rfl, rfl, rfl, rfl, rfl⟩, rfl⟩

/-! ### When an operation is outstanding -/

/-- The state in which an operation is outstanding (spec 10_state.md R49, the table read by operation). -/
def OutstandingIn (s : State) : Operation → Prop
  | .connect => s.ctlState = .connecting
  | .send => s.ctlState = .sending
  | .receive => s.ctlState = .receiving
  | .receiveBudget => (s.ctlState = .sending ∧ s.connOpen = true) ∨ s.ctlState = .receiving
  | .retryTimer => s.ctlState = .retryWait
  | .pollTimer => s.ctlState = .pollSleep

theorem mem_outstanding_iff (s : State) (op : Operation) : op ∈ outstanding s ↔ OutstandingIn s op := by
  cases hs : s.ctlState
  case sending => cases ho : s.connOpen <;> cases op <;> simp [outstanding, OutstandingIn, hs, ho]
  all_goals cases op <;> simp [outstanding, OutstandingIn, hs]

theorem mem_outstanding_sending {s : State} (hs : s.ctlState = .sending) (op : Operation) :
    op ∈ outstanding s ↔ op = .send ∨ (op = .receiveBudget ∧ s.connOpen = true) := by
  cases ho : s.connOpen <;> simp [outstanding, hs, ho]

theorem outstanding_nil {s : State}
    (hs : s.ctlState ∉ [CtlState.connecting, .sending, .receiving, .retryWait, .pollSleep]) : outstanding s = [] := by
  cases hc : s.ctlState <;> simp_all [outstanding]

/-- While the block sends, the connection is open and its budget runs (spec 10_state.md R38, R49). -/
theorem receiveBudget_outstanding {s : State} (h : Inv s) : OutstandingIn s .receiveBudget ↔
    s.ctlState = .sending ∨ s.ctlState = .receiving := by
  have hopen : s.ctlState = .sending → s.connOpen = true := fun hs => h.open_until_teardown (by simp [hs])
  exact or_congr_left (and_iff_left_of_imp hopen)

/-- An operation with a property, one by one. -/
theorem exists_operation {p : Operation → Prop} : (∃ op, p op) ↔
    p .connect ∨ p .send ∨ p .receive ∨ p .receiveBudget ∨ p .retryTimer ∨ p .pollTimer := by
  constructor
  · rintro ⟨op, h⟩
    cases op <;> simp [h]
  · rintro (h | h | h | h | h | h) <;> exact ⟨_, h⟩

/-- Which events answer an outstanding operation, in a state of the invariant. -/
theorem answered_iff {s : State} (h : Inv s) (i : Instr) : (∃ op ∈ outstanding s, answers op i = true) ↔
    (s.ctlState = .connecting ∧ answers .connect i = true) ∨ (s.ctlState = .sending ∧ answers .send i = true) ∨
    (s.ctlState = .receiving ∧ answers .receive i = true) ∨
    ((s.ctlState = .sending ∨ s.ctlState = .receiving) ∧ answers .receiveBudget i = true) ∨
    (s.ctlState = .retryWait ∧ answers .retryTimer i = true) ∨
    (s.ctlState = .pollSleep ∧ answers .pollTimer i = true) := by
  rw [exists_operation, ← receiveBudget_outstanding h]
  simp only [mem_outstanding_iff, OutstandingIn]

/-- The acceptance table is the answers to the outstanding operations (spec 44_controller.md R291, 10_state.md R49). -/
theorem accepts_iff_answers {s : State} (h : Inv s) (i : Instr) :
    accepts s i = true ↔ (∃ op ∈ outstanding s, answers op i = true) ∧
      (i = .evDeadline → s.deadlineExpired = false) ∧ ∀ d, i = .evRxData d → d.length ≤ s.par.rxMax := by
  rw [answered_iff h]
  cases i <;> simp [accepts, answers]

/-- Settles O58: the table of R49 row by row, and the events that answer its operations. -/
theorem outstandingOperations : Obligations.OutstandingOperations := by
  refine ⟨fun s => ⟨fun hs => ?_, mem_outstanding_sending, fun hs => ?_, fun hs => ?_, fun hs => ?_, outstanding_nil⟩,
    fun s i h => accepts_iff_answers h i⟩
  all_goals simp [outstanding, hs]

end Sys2Proof.Machine
end

section
/-! PROOFS. What makes a good state of each controller state (`inv_of_phase`), and with it that every operation keeps the
invariant: it holds at reset (O45) and a step from a state of the invariant completes in one (O46). -/

namespace Sys2Proof.Machine

open Sys2Proof.Safety

/-! ### The invariant, state by state -/

/-- What every state of a cycle shares, whichever of its ten states the controller is in (spec 10_state.md R51 items 3,
6, 7 and 8). -/
structure Underway (s : State) : Prop where
  par_legal : s.par.legal = true
  configured : ∃ c, s.cfg = some c ∧ cfgLegal c = true ∧
    1 ≤ s.attempt.toNat ∧ s.attempt.toNat ≤ c.maxAttempts.toNat
  connect_sent : s.out.all (fun w => !isConnect w) = false
  not_stopped : s.stopReason = .none
  buffer_bound : s.rxBuf.length ≤ 259 + s.par.rxMax

/-- No connection: no request and no budget (spec 10_state.md R36, R38, R40). -/
structure Closed (s : State) : Prop where
  connOpen : s.connOpen = false
  req : s.req = none
  deadline : s.deadlineExpired = false

/-- A connection is open, and the request is what `build` makes of the configuration (spec 10_state.md R36, R38). -/
structure Connected (s : State) : Prop where
  connOpen : s.connOpen = true
  req : ∃ f c, s.req = some f ∧ s.cfg = some c ∧ buildCfg c = .ok f

/-- An attempt's state destroyed (spec 44_controller.md R261). -/
structure TornDown (s : State) : Prop extends Closed s where
  pres : s.pres = none
  rxBuf : s.rxBuf = []

/-- What the invariant asks of a state of a cycle beyond `Underway`, by the controller's state. -/
def Phase (s : State) : Prop :=
  match s.ctlState with
  | .connecting => TornDown s
  | .sending => Connected s ∧ s.pres = none ∧ s.rxBuf = []
  | .receiving => Connected s ∧ s.pres = none ∧ raComplete s.rxBuf = false
  | .parsing => Connected s ∧ s.pres = none ∧ raComplete s.rxBuf = true
  | .interpreting => Connected s ∧ ∃ p, s.pres = some p ∧ ∀ e, p = .err e → errClass e = .retryable
  | .success => Connected s ∧ ∃ r, s.pres = some (.ok r)
  | .retryableFailure => (Connected s ∨ Closed s) ∧ (∀ e, s.pres = some (.err e) → errClass e = .retryable) ∧
      ∃ e, s.lastError = some e ∧ errClass e = .retryable
  | .fatalFailure => Closed s ∧ s.pres = none ∧ s.lastError = some .connectionRefused
  | .retryWait => TornDown s ∧ s.cancelPending = false ∧ ∀ c, s.cfg = some c → s.attempt.toNat < c.maxAttempts.toNat
  | .pollSleep => TornDown s ∧ s.cancelPending = false
  | .idle => False
  | .stopped => False

theorem Closed.request_built {s : State} (h : Closed s) :
    s.req.isSome = s.connOpen ∧ ∀ f, s.req = some f → ∃ c, s.cfg = some c ∧ buildCfg c = .ok f := by
  simp [h.req, h.connOpen]

theorem Connected.request_built {s : State} (h : Connected s) :
    s.req.isSome = s.connOpen ∧ ∀ f, s.req = some f → ∃ c, s.cfg = some c ∧ buildCfg c = .ok f := by
  obtain ⟨f, c, hf, hc, hb⟩ := h.req
  refine ⟨by simp [hf, h.connOpen], fun g hg => ⟨c, hc, ?_⟩⟩
  cases hf.symm.trans hg
  exact hb

theorem Underway.buffer_cap {s : State} (h : Underway s) : s.rxBuf.length ≤ s.par.rxBufCap :=
  h.buffer_bound.trans ((params_legal_iff _).1 h.par_legal).2.2

/-- A state of a cycle is good when its controller state's own conditions hold (spec 10_state.md R51). -/
theorem inv_of_phase {s : State} (hu : Underway s) (hp : Phase s) : Inv s := by
  obtain ⟨c, hcfg, hlegal, hattempt⟩ := hu.configured
  have hcap := hu.buffer_cap
  obtain ⟨hpar, -, hconnect, hreason, hbound⟩ := hu
  have hnil : raComplete [] = false := rfl
  cases hs : s.ctlState <;> simp only [Phase, hs] at hp
  case connecting =>
    obtain ⟨⟨ho, hq, hd⟩, hn, hb⟩ := hp
    constructor <;> simp [*, running, cancelCheckpoint]
  case sending =>
    obtain ⟨hc, hn, hb⟩ := hp
    have ho := hc.connOpen
    constructor
    case request_built => exact hc.request_built
    all_goals simp [*, running, cancelCheckpoint]
  case receiving =>
    obtain ⟨hc, hn, hb⟩ := hp
    have ho := hc.connOpen
    constructor
    case request_built => exact hc.request_built
    all_goals simp [*, running, cancelCheckpoint]
  case parsing =>
    obtain ⟨hc, hn, hb⟩ := hp
    have ho := hc.connOpen
    constructor
    case request_built => exact hc.request_built
    all_goals simp [*, running, cancelCheckpoint]
  case interpreting =>
    obtain ⟨hc, p, hp, he⟩ := hp
    have ho := hc.connOpen
    constructor
    case request_built => exact hc.request_built
    case result_retryable => rw [hp]; rintro e ⟨⟩; exact he e rfl
    all_goals simp [*, running, cancelCheckpoint]
  case success =>
    obtain ⟨hc, r, hr⟩ := hp
    have ho := hc.connOpen
    constructor
    case request_built => exact hc.request_built
    all_goals simp [*, running, cancelCheckpoint]
  case retryableFailure =>
    obtain ⟨hconn, hpres, e, he, hr⟩ := hp
    constructor
    case request_built => exact hconn.elim Connected.request_built Closed.request_built
    case deadline_open =>
      intro hd
      rcases hconn with hc | hc
      · exact hc.connOpen
      · rw [hc.deadline] at hd; cases hd
    case result_retryable => exact hpres
    all_goals simp [*, running, cancelCheckpoint]
  case fatalFailure =>
    obtain ⟨⟨ho, hq, hd⟩, hn, he⟩ := hp
    constructor <;> simp [*, running, cancelCheckpoint]
  case retryWait =>
    obtain ⟨⟨⟨ho, hq, hd⟩, hn, hb⟩, hcancel, hremain⟩ := hp
    have hlt := hremain c hcfg
    constructor <;> simp [*, running, cancelCheckpoint]
  case pollSleep =>
    obtain ⟨⟨⟨ho, hq, hd⟩, hn, hb⟩, hcancel⟩ := hp
    constructor <;> simp [*, running, cancelCheckpoint]

theorem underway_of_inv {s : State} (h : Inv s) (hr : running s.ctlState = true) : Underway s := by
  have hset : s.cfg ≠ none := fun hn => by
    have hrest := h.unset_rests hn
    cases hs : s.ctlState <;> simp_all [running]
  obtain ⟨c, hcfg⟩ := Option.ne_none_iff_exists'.1 hset
  refine ⟨h.par_legal, ⟨c, hcfg, h.cfg_legal c hcfg, h.attempt_bounds c hcfg hr⟩, ?_, ?_, h.buffer_bound hr⟩
  · exact Bool.eq_false_iff.2 fun ha => hset (h.unset_iff.2 ha)
  · by_contra hn
    have hstop := h.stopped_iff.2 hn
    rw [hstop] at hr; cases hr

/-- Without a connection there is neither request nor budget. -/
theorem closed_of_inv {s : State} (h : Inv s) (ho : s.connOpen = false) : Closed s := by
  refine ⟨ho, ?_, ?_⟩
  · have hq := h.request_built.1
    rw [ho] at hq
    exact Option.isSome_eq_false_iff.1 hq |> Option.isNone_iff_eq_none.1
  · exact Bool.eq_false_iff.2 fun hd => by have := h.deadline_open hd; rw [ho] at this; cases this

theorem connected_of_inv {s : State} (h : Inv s) (ho : s.connOpen = true) : Connected s := by
  obtain ⟨hq, hb⟩ := h.request_built
  rw [ho] at hq
  obtain ⟨f, hf⟩ := Option.isSome_iff_exists.1 hq
  obtain ⟨c, hc, hbuild⟩ := hb f hf
  exact ⟨ho, f, c, hf, hc, hbuild⟩

theorem pres_none_of_inv {s : State} (h : Inv s)
    (hs : s.ctlState ∉ [CtlState.interpreting, .success, .retryableFailure]) : s.pres = none :=
  Option.eq_none_iff_forall_not_mem.2 fun p hp => hs (h.result_span (by rw [Option.mem_def.1 hp]; rfl))

theorem connOpen_false_of_inv {s : State} (h : Inv s)
    (hs : s.ctlState ∉ [CtlState.sending, .receiving, .parsing, .interpreting, .success, .retryableFailure]) :
    s.connOpen = false := Bool.eq_false_iff.2 fun ho => hs (h.open_states ho)

/-! ### Operations that keep the invariant -/

theorem Underway.along {s t : State} (h : Underway s) (k : SameAttempt s t)
    (hb : t.rxBuf.length ≤ 259 + s.par.rxMax) : Underway t := by
  obtain ⟨words, hout⟩ := k.out
  refine ⟨k.par ▸ h.par_legal, ?_, ?_, k.stopReason.trans h.not_stopped, k.par ▸ hb⟩
  · rw [k.cfg, k.attempt]; exact h.configured
  · rw [← hout, List.all_append, h.connect_sent, Bool.false_and]

/-- The responses and what is pending are no part of a good state. -/
theorem inv_bookkeeping {s : State} (h : Inv s) (r : List HostResponse) (p : List Arrival) :
    Inv { s with resp := r, pending := p } := { h with }

theorem inv_respond {s : State} (h : Inv s) (r : HostResponse) : Inv (respond r s) := inv_bookkeeping h _ _

theorem stopWords_no_connect (b : Bool) (r : StopReason) :
    (closingWords b ++ [OutWord.stopped r (stopKind r)]).all (fun w => !isConnect w) = true := by
  cases b <;> rfl

/-- A stop needs of the state before only what does not speak of the attempt (spec 44_controller.md R290). -/
theorem inv_stop {s : State} {r : StopReason} (hr : r ≠ .none) (hpar : s.par.legal = true)
    (hlegal : ∀ c, s.cfg = some c → cfgLegal c = true)
    (hset : s.cfg = none ↔ s.out.all (fun w => !isConnect w) = true) : Inv (stop r s) := by
  constructor
  case unset_iff =>
    rwa [stop_cfg, stop_out, List.append_assoc, List.all_append, stopWords_no_connect, Bool.and_true]
  case cfg_legal => simpa using hlegal
  all_goals simp [hr, hpar, running, cancelCheckpoint]

theorem inv_stop_of_underway {s : State} {r : StopReason} (h : Underway s) (hr : r ≠ .none) : Inv (stop r s) := by
  obtain ⟨c, hcfg, hlegal, -⟩ := h.configured
  refine inv_stop hr h.par_legal (fun d hd => ?_) (by simp [hcfg, h.connect_sent])
  cases hcfg.symm.trans hd
  exact hlegal

theorem inv_unexpected {s : State} (h : Inv s) : Inv (unexpected s) := by
  by_cases hs : s.ctlState = .stopped
  · rw [unexpected_stopped hs]; exact h
  · rw [unexpected_running hs]; exact inv_stop (by decide) h.par_legal h.cfg_legal h.unset_iff

/-- The host's own use of the buffer, in IDLE and STOPPED (spec 42_reassembler.md R199). -/
theorem inv_hostBuffer {s : State} (h : Inv s) (ho : hostOwnsBuffer s.ctlState = true) {b : List Byte}
    (hb : b.length ≤ s.par.rxBufCap) : Inv { s with rxBuf := b } := by
  have hrest : s.ctlState = .idle ∨ s.ctlState = .stopped := by
    cases hs : s.ctlState <;> simp_all [hostOwnsBuffer]
  refine { h with waits_clean := ?_, fresh_buffer := ?_, receiving_incomplete := ?_, parsing_complete := ?_,
                  buffer_bound := ?_, buffer_cap := hb }
  all_goals rcases hrest with hs | hs <;> simp [hs, running]

/-- A cancellation is latched outside the checkpoints (spec 44_controller.md R285). -/
theorem inv_latchCancel {s : State} (h : Inv s) (hc : cancelCheckpoint s.ctlState = false) :
    Inv { s with cancelPending := true } :=
  { h with cancel_unseen := fun ht => by rw [hc] at ht; cases ht }

theorem inv_latchDeadline {s : State} (h : Inv s) (ho : s.connOpen = true) :
    Inv { s with deadlineExpired := true } := { h with deadline_open := fun _ => ho }

/-- An attempt begins under a legal configuration, its number within the bounds (spec 44_controller.md R260, R262). -/
theorem inv_beginAttempt {s : State} {c : Cfg} (hpar : s.par.legal = true) (hcfg : s.cfg = some c)
    (hlegal : cfgLegal c = true) (hreason : s.stopReason = .none) (ho : s.connOpen = false)
    (hattempt : 1 ≤ (s.attempt + 1#32).toNat ∧ (s.attempt + 1#32).toNat ≤ c.maxAttempts.toNat) :
    Inv (beginAttempt c s) :=
  inv_of_phase ⟨hpar, ⟨c, hcfg, hlegal, hattempt⟩, by simp [isConnect], hreason, Nat.zero_le _⟩
    (show TornDown _ from ⟨⟨ho, rfl, rfl⟩, rfl, rfl⟩)

/-- The first attempt of a cycle is always within the bounds (spec 44_controller.md R257, R259). -/
theorem inv_beginCycle {s : State} {c : Cfg} (hpar : s.par.legal = true) (hcfg : s.cfg = some c)
    (hlegal : cfgLegal c = true) (hreason : s.stopReason = .none) (ho : s.connOpen = false) : Inv (beginCycle c s) := by
  obtain ⟨-, -, -, hmax, -⟩ := (cfgLegal_iff c).1 hlegal
  exact inv_beginAttempt (s := { s with attempt := 0#32, lastError := none }) hpar hcfg hlegal hreason ho
    ⟨Nat.le_refl 1, hmax⟩

theorem inv_openAndSend {s : State} {c : Cfg} {f : List Byte} (h : Inv s) (hs : s.ctlState = .connecting)
    (hc : s.cfg = some c) (hb : buildCfg c = .ok f) : Inv (openAndSend c f s) := by
  have hu := underway_of_inv h (by rw [hs]; rfl)
  have hn : s.pres = none := pres_none_of_inv h (by simp [hs])
  have hempty : s.rxBuf = [] := h.fresh_buffer (by simp [hs])
  exact inv_of_phase (hu.along (sameAttempt_openAndSend c f s) hu.buffer_bound)
    (show Connected _ ∧ _ from ⟨⟨rfl, f, c, rfl, hc, hb⟩, hn, hempty⟩)

/-- A retryable failure keeps the attempt's state for the teardown that follows (spec 60_exceptions.md R327). -/
theorem inv_raiseRetryable {s : State} {e : Err} (h : Inv s) (hr : running s.ctlState = true)
    (he : errClass e = .retryable) : Inv (raiseError e s) := by
  rw [raiseError_retryable s he]
  have hu := underway_of_inv h hr
  have hconn : Connected s ∨ Closed s := by
    cases ho : s.connOpen
    · exact .inr (closed_of_inv h ho)
    · exact .inl (connected_of_inv h ho)
  exact inv_of_phase (hu.along (sameAttempt_fields s ..) hu.buffer_bound)
    (show (Connected _ ∨ Closed _) ∧ _ from
      ⟨hconn.imp (fun k => ⟨k.connOpen, k.req⟩) (fun k => ⟨k.connOpen, k.req, k.deadline⟩), h.result_retryable, e, rfl, he⟩)

theorem inv_raiseRefused {s : State} (h : Inv s) (hs : s.ctlState = .connecting) :
    Inv (raiseError .connectionRefused s) := by
  rw [raiseError_fatal s rfl]
  have hu := underway_of_inv h (by rw [hs]; rfl)
  obtain ⟨ho, hq, hd⟩ := closed_of_inv h (connOpen_false_of_inv h (by simp [hs]))
  have hn : s.pres = none := pres_none_of_inv h (by simp [hs])
  exact inv_of_phase (hu.along (sameAttempt_fields s ..) hu.buffer_bound)
    (show Closed _ ∧ _ from ⟨⟨ho, hq, hd⟩, hn, rfl⟩)

/-! ### The receive loop -/

/-- While the request is being sent and while the response is awaited, the connection is open and nothing is parsed. -/
theorem exchange_of_inv {s : State} (h : Inv s) (hs : s.ctlState ∈ [CtlState.sending, .receiving]) :
    Underway s ∧ Connected s ∧ s.pres = none := by
  simp only [List.mem_cons, List.not_mem_nil, or_false] at hs
  have hr : running s.ctlState = true := by rcases hs with hs | hs <;> rw [hs] <;> rfl
  refine ⟨underway_of_inv h hr, connected_of_inv h (h.open_until_teardown ?_), pres_none_of_inv h ?_⟩
  all_goals rcases hs with hs | hs <;> simp [hs]

theorem inv_firstReceive {s : State} (h : Inv s) (hs : s.ctlState = .sending) :
    Inv (goto .receiving (askReceive s)) := by
  obtain ⟨hu, ⟨ho, hq⟩, hn⟩ := exchange_of_inv h (by simp [hs])
  have hempty : s.rxBuf = [] := h.fresh_buffer (by simp [hs])
  exact inv_of_phase (hu.along ((sameAttempt_askReceive s).trans (sameAttempt_goto _ _)) hu.buffer_bound)
    (show Connected _ ∧ _ from ⟨⟨ho, hq⟩, hn, by simp [hempty, raComplete]⟩)

theorem inv_askReceive {s : State} (h : Inv s) (hs : s.ctlState = .receiving) : Inv (askReceive s) := by
  obtain ⟨hu, ⟨ho, hq⟩, hn⟩ := exchange_of_inv h (by simp [hs])
  refine inv_of_phase (hu.along (sameAttempt_askReceive s) hu.buffer_bound) ?_
  simp only [Phase, askReceive_ctlState, hs]
  exact ⟨⟨ho, hq⟩, hn, h.receiving_incomplete hs⟩

/-- The buffer is incomplete before a chunk, so it stays within its bound after one (spec 20_memory.md R75). -/
theorem appendRx_bound {s : State} {d : List Byte} (h : Inv s) (hs : s.ctlState = .receiving)
    (hd : d.length ≤ s.par.rxMax) : (appendRx d s).rxBuf.length ≤ 259 + s.par.rxMax := by
  have hb := incomplete_length (h.receiving_incomplete hs)
  simp only [appendRx_rxBuf, List.length_append]
  omega

theorem inv_appendRx_incomplete {s : State} {d : List Byte} (h : Inv s) (hs : s.ctlState = .receiving)
    (hd : d.length ≤ s.par.rxMax) (hc : raComplete (appendRx d s).rxBuf = false) : Inv (appendRx d s) := by
  obtain ⟨hu, ⟨ho, hq⟩, hn⟩ := exchange_of_inv h (by simp [hs])
  refine inv_of_phase (hu.along (sameAttempt_appendRx d s) (appendRx_bound h hs hd)) ?_
  simp only [Phase, appendRx_ctlState, hs]
  exact ⟨⟨ho, hq⟩, hn, hc⟩

theorem inv_appendRx_complete {s : State} {d : List Byte} (h : Inv s) (hs : s.ctlState = .receiving)
    (hd : d.length ≤ s.par.rxMax) (hc : raComplete (appendRx d s).rxBuf = true) :
    Inv (goto .parsing (appendRx d s)) := by
  obtain ⟨hu, ⟨ho, hq⟩, hn⟩ := exchange_of_inv h (by simp [hs])
  exact inv_of_phase (hu.along ((sameAttempt_appendRx d s).trans (sameAttempt_goto _ _)) (appendRx_bound h hs hd))
    (show Connected _ ∧ _ from ⟨⟨ho, hq⟩, hn, hc⟩)

/-! ### Waits -/

theorem tornDown_endAttempt (s : State) : TornDown (endAttempt s) := 
  ⟨⟨by simp, by simp, by simp⟩, by simp, by simp⟩

theorem underway_endAttempt {s : State} (h : Underway s) : Underway (endAttempt s) :=
  h.along (sameAttempt_endAttempt s) (by simp)

/-- What ends a cycle: teardown, report, and the poll sleep or the stop it is a checkpoint for (spec 44_controller.md
R277, R283). -/
theorem inv_reportAndSleep {s : State} (h : Underway s) (c : Cfg) (w : OutWord) :
    Inv (enterPollSleep c (emit w (endAttempt s))) := by
  have hu : Underway (emit w (endAttempt s)) := (underway_endAttempt h).along (sameAttempt_emit w _) (by simp)
  rcases enterPollSleep_cases c (emit w (endAttempt s)) with ⟨-, he⟩ | ⟨hc, he⟩
  · rw [he]; exact inv_stop_of_underway hu (by decide)
  · rw [he]
    obtain ⟨⟨ho, hq, hd⟩, hn, hb⟩ := tornDown_endAttempt s
    exact inv_of_phase (hu.along ((sameAttempt_emit _ _).trans (sameAttempt_goto _ _)) (by simp))
      (show TornDown _ ∧ _ from ⟨⟨⟨ho, hq, hd⟩, hn, hb⟩, hc⟩)

/-- A retry delay is entered while attempts remain (spec 44_controller.md R278, R282). -/
theorem inv_tearDownAndRetry {s : State} {c : Cfg} (h : Underway s) (hcfg : s.cfg = some c)
    (hr : attemptsRemain c s = true) : Inv (enterRetryWait c (endAttempt s)) := by
  have hu := underway_endAttempt h
  rcases enterRetryWait_cases c (endAttempt s) with ⟨-, he⟩ | ⟨hc, he⟩
  · rw [he]; exact inv_stop_of_underway hu (by decide)
  · rw [he]
    obtain ⟨⟨ho, hq, hd⟩, hn, hb⟩ := tornDown_endAttempt s
    have hremain : ∀ d, (endAttempt s).cfg = some d → (endAttempt s).attempt.toNat < d.maxAttempts.toNat := by
      intro d hd
      rw [endAttempt_cfg, hcfg] at hd
      cases hd
      simpa using (attemptsRemain_iff c s).1 hr
    exact inv_of_phase (hu.along ((sameAttempt_emit _ _).trans (sameAttempt_goto _ _)) (by simp))
      (show TornDown _ ∧ _ from ⟨⟨⟨ho, hq, hd⟩, hn, hb⟩, hc, hremain⟩)

/-! ### What completes in a good state -/

/-- An answer is a next state of the invariant: no fault and no refusal. -/
def Completes (a : Answer) : Prop := ∃ t, a = .next t ∧ Inv t

theorem completes_next {t : State} (h : Inv t) : Completes (.next t) := ⟨t, rfl, h⟩

/-- A running state of the invariant has the configuration its rules read. -/
theorem completes_withCfg {s : State} {k : Cfg → Answer} (hu : Underway s)
    (hk : ∀ c, s.cfg = some c → cfgLegal c = true → Completes (k c)) : Completes (withCfg s k) := by
  obtain ⟨c, hcfg, hlegal, -⟩ := hu.configured
  rw [withCfg_some hcfg]
  exact hk c hcfg hlegal

theorem parsingStep_completes {s : State} (h : Inv s) (hs : s.ctlState = .parsing) : Completes (parsingStep s) := by
  rw [parsingStep_eq hs]
  have hu := underway_of_inv h (by rw [hs]; rfl)
  obtain ⟨ho, hq⟩ := connected_of_inv h (h.open_until_teardown (by simp [hs]))
  exact completes_next (inv_of_phase (hu.along (sameAttempt_parseFrame _ s) (Nat.zero_le _))
    (show Connected _ ∧ _ from ⟨⟨ho, hq⟩, _, rfl, fun e he => parse_err_retryable he⟩))

theorem interpretStep_completes {s : State} (h : Inv s) (hs : s.ctlState = .interpreting) :
    Completes (interpretStep s) := by
  have hr : running s.ctlState = true := by rw [hs]; rfl
  have hu := underway_of_inv h hr
  obtain ⟨ho, hq⟩ := connected_of_inv h (h.open_until_teardown (by simp [hs]))
  obtain ⟨p, hp⟩ := Option.isSome_iff_exists.1 (h.interpreting_result hs)
  cases p with
  | ok r =>
    simp only [interpretStep, hp]
    exact completes_next (inv_of_phase (hu.along (sameAttempt_goto _ s) hu.buffer_bound)
      (show Connected _ ∧ _ from ⟨⟨ho, hq⟩, r, hp⟩))
  | err e =>
    simp only [interpretStep, hp]
    exact completes_next (inv_raiseRetryable h hr (h.result_retryable e hp))

theorem successStep_completes {s : State} (h : Inv s) (hs : s.ctlState = .success) : Completes (successStep s) := by
  have hu := underway_of_inv h (by rw [hs]; rfl)
  obtain ⟨r, hr⟩ := h.success_result hs
  simp only [successStep, hr]
  exact completes_withCfg hu fun c _ _ => completes_next (inv_reportAndSleep hu c _)

theorem retryableStep_completes {s : State} (h : Inv s) (hs : s.ctlState = .retryableFailure) :
    Completes (retryableStep s) := by
  have hu := underway_of_inv h (by rw [hs]; rfl)
  obtain ⟨e, he, -⟩ := h.retryable_recorded hs
  refine completes_withCfg hu fun c hcfg _ => ?_
  split
  · exact completes_next (inv_tearDownAndRetry hu hcfg ‹_›)
  · rw [he]; exact completes_next (inv_reportAndSleep hu c _)

theorem fatalStep_completes {s : State} (h : Inv s) (hs : s.ctlState = .fatalFailure) : Completes (fatalStep s) :=
  have hu := underway_of_inv h (by rw [hs]; rfl)
  completes_withCfg hu fun c _ _ => completes_next (inv_reportAndSleep hu c _)

theorem internalStep_completes {s : State} (h : Inv s) : Completes (internalStep s) := by
  unfold internalStep
  cases hs : s.ctlState
  case parsing => exact parsingStep_completes h hs
  case interpreting => exact interpretStep_completes h hs
  case success => exact successStep_completes h hs
  case retryableFailure => exact retryableStep_completes h hs
  case fatalFailure => exact fatalStep_completes h hs
  all_goals exact completes_next h

/-! ### Events -/

theorem takeEvent_completes {i : Instr} {s : State} {e : Answer} (h : Inv s)
    (effect : accepts s i = true → Completes e) : Completes (takeEvent i s e) := by
  cases ht : transient s.ctlState
  · cases ha : accepts s i
    · rw [takeEvent_unexpected ht ha]; exact completes_next (inv_unexpected h)
    · rw [takeEvent_accepted ht ha]; exact effect ha
  · rw [takeEvent_waits ht]; exact completes_next (inv_bookkeeping h _ _)

theorem running_of_accepts {s : State} {i : Instr} (h : accepts s i = true) : running s.ctlState = true := by
  have hw := accepts_waiting h
  simp only [List.mem_cons, List.not_mem_nil, or_false] at hw
  rcases hw with hs | hs | hs | hs | hs <;> rw [hs] <;> rfl

/-- An event whose effect is a retryable failure. -/
theorem takeEvent_retryable_completes {i : Instr} {s : State} {e : Err} (h : Inv s) (he : errClass e = .retryable) :
    Completes (takeEvent i s (.next (raiseError e s))) :=
  takeEvent_completes h fun ha => completes_next (inv_raiseRetryable h (running_of_accepts ha) he)

theorem evConnectOk_completes {s : State} (h : Inv s) : Completes (execEvConnectOk s) := by
  refine takeEvent_completes h fun ha => ?_
  have hs : s.ctlState = .connecting := of_decide_eq_true ha
  refine completes_withCfg (underway_of_inv h (running_of_accepts ha)) fun c hcfg hlegal => ?_
  have hb := buildCfg_legal hlegal
  rw [hb]
  exact completes_next (inv_openAndSend h hs hcfg hb)

theorem evSendOk_completes {s : State} (h : Inv s) : Completes (execEvSendOk s) := by
  refine takeEvent_completes h fun ha => ?_
  split
  · exact completes_next (inv_raiseRetryable h (running_of_accepts ha) rfl)
  · exact completes_next (inv_firstReceive h (of_decide_eq_true ha))

theorem evRxData_completes {s : State} (d : List Byte) (h : Inv s) : Completes (execEvRxData d s) := by
  refine takeEvent_completes h fun ha => ?_
  have hr := running_of_accepts ha
  simp only [accepts, Bool.and_eq_true, decide_eq_true_eq] at ha
  obtain ⟨hs, hd⟩ := ha
  split
  · exact completes_next (inv_raiseRetryable h hr rfl)
  · dsimp only
    cases hc : raComplete (appendRx d s).rxBuf
    · have happ := inv_appendRx_incomplete h hs hd hc
      rw [if_neg Bool.false_ne_true]
      split
      · exact completes_next (inv_raiseRetryable happ hr rfl)
      · exact completes_next (inv_askReceive happ hs)
    · exact completes_next (inv_appendRx_complete h hs hd hc)

theorem evDeadline_completes {s : State} (h : Inv s) : Completes (execEvDeadline s) := by
  refine takeEvent_completes h fun ha => completes_next (inv_latchDeadline h (h.open_until_teardown ?_))
  simp only [accepts, Bool.and_eq_true, Bool.or_eq_true, decide_eq_true_eq] at ha
  obtain ⟨hs | hs, -⟩ := ha <;> simp [hs]

theorem evTimerDone_completes {s : State} (h : Inv s) : Completes (execEvTimerDone s) := by
  refine takeEvent_completes h fun ha => ?_
  have hu := underway_of_inv h (running_of_accepts ha)
  simp only [accepts, Bool.or_eq_true, decide_eq_true_eq] at ha
  obtain ⟨ho, -⟩ := h.waits_clean (by simpa using ha)
  refine completes_withCfg hu fun c hcfg hlegal => ?_
  split
  · have hlt := h.retry_remains ‹_› c hcfg
    have hmax := c.maxAttempts.isLt
    exact completes_next (inv_beginAttempt hu.par_legal hcfg hlegal hu.not_stopped ho
      (by rw [BitVec.toNat_add]; simp only [BitVec.toNat_ofNat]; omega))
  · exact completes_next (inv_beginCycle hu.par_legal hcfg hlegal hu.not_stopped ho)

theorem exec_event_completes {i : Instr} {s : State} (hi : i.port = .event) (h : Inv s) : Completes (exec i s) := by
  cases i <;> cases hi
  case evConnectOk => exact evConnectOk_completes h
  case evConnectRefused =>
    exact takeEvent_completes h fun ha => completes_next (inv_raiseRefused h (of_decide_eq_true ha))
  case evConnectError => exact takeEvent_retryable_completes h rfl
  case evSendOk => exact evSendOk_completes h
  case evSendError => exact takeEvent_retryable_completes h rfl
  case evRxData d => exact evRxData_completes d h
  case evRxError => exact takeEvent_retryable_completes h rfl
  case evRxTimeout => exact takeEvent_retryable_completes h rfl
  case evDeadline => exact evDeadline_completes h
  case evTimerDone => exact evTimerDone_completes h

theorem eventStep_completes {w : List Byte} {s : State} (h : Inv s) : Completes (eventStep w s) := by
  unfold eventStep
  split
  · exact exec_event_completes (decodeEvent_ok ‹_›) h
  · exact completes_next (inv_unexpected h)

/-! ### Host commands -/

/-- A configuration that CTL_START accepts is stored as a legal one (spec 44_controller.md R256, R257). -/
theorem cfgLegal_of_validCfg {slave fc start count maxAttempts : Quad} (timeout retryDelay pollInterval : Quad)
    {endpoint : List Byte} (hep : endpoint.length ≤ 65535)
    (h : validCfg (i32 slave) (i32 fc) (i32 start) (i32 count) (i32 maxAttempts) = true) :
    cfgLegal { slave := BitVec.ofInt 8 (i32 slave), func := BitVec.ofInt 8 (i32 fc),
               start := BitVec.ofInt 16 (i32 start), count := BitVec.ofInt 16 (i32 count), maxAttempts, timeout,
               retryDelay, pollInterval, endpoint } = true := by
  obtain ⟨⟨hs0, hs1, hfc, -, -, hc0, hc1⟩, hm⟩ := (validCfg_iff _ _ _ _ _).1 h
  have hmax : 1 ≤ maxAttempts.toNat ∧ maxAttempts.toNat ≤ 2147483647 := by
    have hlt := maxAttempts.isLt
    rw [i32, BitVec.toInt_eq_toNat_cond] at hm
    split at hm <;> omega
  refine (cfgLegal_iff _).2 ⟨?_, ?_, ?_, hmax.1, hmax.2, hep⟩
  · simp only [BitVec.toNat_ofInt]; omega
  · exact hfc.imp (fun h3 => by rw [h3]; rfl) (fun h4 => by rw [h4]; rfl)
  · simp only [BitVec.toNat_ofInt]; omega

theorem ctlStart_completes {s : State} {a b c d m u r p : Quad} {ep : List Byte} (h : Inv s)
    (hep : ep.length ≤ 65535) (hs : s.ctlState = .idle) : Completes (execCtlStart a b c d m u r p ep s) := by
  unfold execCtlStart
  rw [if_neg (not_not.2 hs)]
  split
  · have hreason : s.stopReason = .none := by
      by_contra hn
      have hstop := h.stopped_iff.2 hn
      rw [hs] at hstop; cases hstop
    exact completes_next (inv_beginCycle h.par_legal rfl (cfgLegal_of_validCfg u r p hep ‹_›) hreason
      (h.rests_closed (by simp [hs])))
  · exact completes_next (inv_stop (by decide) h.par_legal h.cfg_legal h.unset_iff)

theorem ctlCancel_completes {s : State} (h : Inv s) : Completes (execCtlCancel s) := by
  unfold execCtlCancel
  dsimp only
  split
  · exact completes_next (inv_stop (by decide) h.par_legal h.cfg_legal h.unset_iff)
  · exact completes_next (inv_respond (inv_latchCancel h (Bool.eq_false_iff.2 ‹_›)) _)

/-- A host command completes unless it is refused (spec 60_exceptions.md R337). -/
theorem exec_host_completes {i : Instr} {s : State} (hi : i.port = .host) (hw : i.wellFormed = true) (h : Inv s)
    (hn : ∀ r, exec i s ≠ .refused r) : Completes (exec i s) := by
  cases i <;> cases hi
  case crc16 => exact completes_next (inv_respond h _)
  case build =>
    simp only [exec, execBuild]
    split <;> exact completes_next (inv_respond h _)
  case raReset =>
    simp only [exec, execRaReset] at hn ⊢
    split at hn
    · rw [if_pos ‹_›]
      exact completes_next (inv_respond (inv_hostBuffer h ‹_› (Nat.zero_le _)) _)
    · exact absurd rfl (hn _)
  case raFeed d =>
    simp only [exec, execRaFeed] at hn ⊢
    repeat' split at hn
    · simp only [*, if_true]; exact completes_next (inv_respond h _)
    · exact absurd rfl (hn _)
    · rename_i ho hd hcap
      rw [if_pos ho, if_neg hd, if_neg hcap]
      exact completes_next (inv_respond (inv_hostBuffer h ho (by rw [List.length_append]; omega)) _)
    · exact absurd rfl (hn _)
  case parse =>
    simp only [exec, execParse]
    split <;> exact completes_next (inv_respond h _)
  case ctlStart =>
    by_cases hs : s.ctlState = .idle
    · exact ctlStart_completes h (of_decide_eq_true hw) hs
    · exact absurd (if_pos hs) (hn .illegalState)
  case ctlCancel => exact ctlCancel_completes h
  case ctlStatus => exact completes_next (inv_respond h _)

theorem hostStep_completes {w : List Byte} {s : State} (h : Inv s) (hn : ∀ r, hostStep w s ≠ .refused r) :
    Completes (hostStep w s) := by
  unfold hostStep at hn ⊢
  split at hn
  · rename_i i hd
    obtain ⟨hport, hwf⟩ := decodeHost_ok hd
    exact exec_host_completes hport hwf h hn
  · exact absurd rfl (hn _)

/-! ### The invariant at reset and under a step -/

theorem inv_resetWith {p : Config.Params} (hp : p.legal = true) : Inv (State.resetWith p) := by
  constructor
  case par_legal => exact hp
  all_goals simp [State.resetWith, running]

/-- Settles O45. -/
theorem invAtReset : Obligations.InvAtReset := ⟨fun _ hp => inv_resetWith hp, inv_resetWith rfl⟩

theorem step_completes (s : State) (h : Inv s) : Completes (step s) := by
  induction s using step_induction with
  | passes s w rest a hp hr he ih => rw [he]; exact ih (inv_bookkeeping h _ _)
  | takes s hn =>
    have took (rest : List Arrival) : Inv { s with pending := rest } := inv_bookkeeping h _ rest
    rcases step_cases s with ⟨-, he⟩ | ⟨w, rest, -, hr, he⟩ | ⟨w, rest, a, hp, hr, -⟩ | ⟨w, rest, -, -, he⟩ |
      ⟨w, rest, -, -, he⟩ | ⟨rest, -, he⟩
    · rw [he]; exact internalStep_completes h
    · rw [he]
      refine hostStep_completes (took rest) fun r hw => ?_
      rw [← refusedArrival_congr s s.resp rest, Bool.eq_false_iff] at hr
      exact hr (refusedArrival_iff.2 ⟨w, r, rfl, hw⟩)
    · rw [hn w rest hp] at hr; cases hr
    · rw [he]; exact internalStep_completes h
    · rw [he]; exact eventStep_completes (took rest)
    · rw [he]; exact internalStep_completes (took rest)

/-- Settles O46, by what the step takes: refused words leave a good state, and whatever comes after them completes. -/
theorem stepKeepsInv : Obligations.StepKeepsInv := step_completes

end Sys2Proof.Machine
end

section
/-! PROOFS. The receive buffer within its capacity (O55), and the commands that only respond: everything an internal
step does commutes with a response, so CRC16, BUILD and PARSE commute with it (O56). -/

namespace Sys2Proof.Machine

open Sys2Proof.Safety

/-! ### The receive buffer -/

/-- Settles O55: the buffer was incomplete before the chunk, and the capacity leaves room for one chunk more (spec
00_scope.md R12). -/
theorem receiveNeverOverflows : Obligations.ReceiveNeverOverflows := by
  intro s d h hs hd
  have bound : (s.rxBuf ++ d).length ≤ 259 + s.par.rxMax := appendRx_bound h hs hd
  obtain ⟨-, -, room⟩ := (params_legal_iff s.par).1 h.par_legal
  exact ⟨bound, bound.trans room⟩

/-! ### The shared operations commute with a response -/

theorem goto_respond (c : CtlState) (r : HostResponse) (s : State) :
    goto c (respond r s) = respond r (goto c s) := rfl

theorem emit_respond (w : OutWord) (r : HostResponse) (s : State) :
    emit w (respond r s) = respond r (emit w s) := rfl

theorem parseFrame_respond (f : List Byte) (r : HostResponse) (s : State) :
    parseFrame f (respond r s) = respond r (parseFrame f s) := rfl

theorem endAttempt_respond (r : HostResponse) (s : State) :
    endAttempt (respond r s) = respond r (endAttempt s) := by
  cases h : s.connOpen <;> simp [endAttempt, closeConnection, clearAttempt, respond, h]

theorem stop_respond (reason : StopReason) (r : HostResponse) (s : State) :
    stop reason (respond r s) = respond r (stop reason s) := by
  simp only [stop, endAttempt_respond]
  rfl

theorem raiseError_respond (e : Err) (r : HostResponse) (s : State) :
    raiseError e (respond r s) = respond r (raiseError e s) := by
  cases h : errClass e with
  | retryable => rw [raiseError_retryable _ h, raiseError_retryable _ h]; rfl
  | fatal => rw [raiseError_fatal _ h, raiseError_fatal _ h]; rfl
  | constructionTime => rw [raiseError_construction _ h, raiseError_construction _ h, stop_respond]

theorem enterRetryWait_respond (c : Cfg) (r : HostResponse) (s : State) :
    enterRetryWait c (respond r s) = respond r (enterRetryWait c s) := by
  cases h : s.cancelPending <;> simp [enterRetryWait, h, stop_respond, emit_respond, goto_respond]

theorem enterPollSleep_respond (c : Cfg) (r : HostResponse) (s : State) :
    enterPollSleep c (respond r s) = respond r (enterPollSleep c s) := by
  cases h : s.cancelPending <;> simp [enterPollSleep, h, stop_respond, emit_respond, goto_respond]

/-! ### An internal step commutes with a response -/

theorem interpretStep_respond {s t : State} (r : HostResponse) (h : interpretStep s = .next t) :
    interpretStep (respond r s) = .next (respond r t) := by
  obtain ⟨v, hp, rfl⟩ | ⟨e, hp, rfl⟩ := interpretStep_next h
  · simp [interpretStep, hp, goto_respond]
  · simp [interpretStep, hp, raiseError_respond]

theorem successStep_respond {s t : State} (r : HostResponse) (h : successStep s = .next t) :
    successStep (respond r s) = .next (respond r t) := by
  obtain ⟨v, c, hp, hc, rfl⟩ := successStep_next h
  have hcfg : (respond r s).cfg = some c := hc
  simp [successStep, hp, withCfg_some hcfg, endAttempt_respond, emit_respond, enterPollSleep_respond]

theorem retryableStep_respond {s t : State} (r : HostResponse) (h : retryableStep s = .next t) :
    retryableStep (respond r s) = .next (respond r t) := by
  obtain ⟨c, hc, hend⟩ := retryableStep_next h
  have hcfg : (respond r s).cfg = some c := hc
  have same : attemptsRemain c (respond r s) = attemptsRemain c s := rfl
  obtain ⟨hr, rfl⟩ | ⟨hr, e, he, rfl⟩ := hend
  · simp [retryableStep, withCfg_some hcfg, same, hr, endAttempt_respond, enterRetryWait_respond]
  · simp [retryableStep, withCfg_some hcfg, same, hr, he, endAttempt_respond, emit_respond, enterPollSleep_respond]

theorem fatalStep_respond {s t : State} (r : HostResponse) (h : fatalStep s = .next t) :
    fatalStep (respond r s) = .next (respond r t) := by
  obtain ⟨c, hc, rfl⟩ := fatalStep_next h
  have hcfg : (respond r s).cfg = some c := hc
  simp [fatalStep, withCfg_some hcfg, endAttempt_respond, emit_respond, enterPollSleep_respond]

/-- No internal step reads the responses given, and none gives one (spec 44_controller.md R274 to R279). -/
theorem internalStep_respond {s t : State} (r : HostResponse) (h : internalStep s = .next t) :
    internalStep (respond r s) = .next (respond r t) := by
  cases ht : transient s.ctlState
  · rw [internalStep_resting ht] at h
    cases h
    exact internalStep_resting ht
  · obtain ⟨hs, rfl⟩ | ⟨hs, h⟩ | ⟨hs, h⟩ | ⟨hs, h⟩ | ⟨hs, h⟩ := internalStep_next ht h <;>
      simp only [internalStep, respond_ctlState, hs]
    · exact parsingStep_eq hs
    · exact interpretStep_respond r h
    · exact successStep_respond r h
    · exact retryableStep_respond r h
    · exact fatalStep_respond r h

/-! ### The commands that only respond -/

/-- The whole effect of CRC16, BUILD and PARSE is a response, the same in every state (spec 40_crc.md R153,
41_frame_builder.md R172, 43_parser.md R228). -/
theorem exec_pure_responds {i : Instr}
    (hi : (∃ d, i = .crc16 d) ∨ (∃ a b c d, i = .build a b c d) ∨ (∃ f, i = .parse f)) :
    ∃ r, ∀ s, exec i s = .next (respond r s) := by
  obtain ⟨d, rfl⟩ | ⟨a, b, c, d, rfl⟩ | ⟨f, rfl⟩ := hi
  · exact ⟨_, fun _ => rfl⟩
  · cases h : build (i32 a) (i32 b) (i32 c) (i32 d) with
    | ok frame => exact ⟨.ok frame, fun s => by simp [exec, execBuild, h]⟩
    | err e => exact ⟨.err e, fun s => by simp [exec, execBuild, h]⟩
  · cases h : parse f with
    | ok reading => exact ⟨.ok (readingBytes reading), fun s => by simp [exec, execParse, h]⟩
    | err e => exact ⟨.err e, fun s => by simp [exec, execParse, h]⟩

/-- Settles O56: the command is one response, and an internal step commutes with a response. -/
theorem pureCommandsCommute : Obligations.PureCommandsCommute := by
  intro i s t hi h
  obtain ⟨r, responds⟩ := exec_pure_responds hi
  exact ⟨respond r s, respond r t, responds s, internalStep_respond r h, responds t⟩

end Sys2Proof.Machine
end

section
/-! PROOFS. The codec, format by format: what each decoder reads and which words it rejects; from these decode and
encode agree (O1), a decoded word is an encoding (O2), and words written out decode (O5). Then the words that decode to
nothing: on the host port (O3) and on the event port (O4). -/

namespace Sys2Proof.Machine

open Sys2Proof.Safety

/-! ### Rejections -/

/-- The decoder's answer is a rejection, by whatever name. -/
def Rejected (d : Decoded) : Prop := ∃ why, d = .reject why

@[simp] theorem rejected_reject (why : Reject) : Rejected (.reject why) := ⟨why, rfl⟩
@[simp] theorem not_rejected_ok (i : Instr) : ¬ Rejected (.ok i) := nofun

theorem ok_or_rejected : ∀ d : Decoded, (∃ i, d = .ok i) ∨ Rejected d
  | .ok i => .inl ⟨i, rfl⟩
  | .reject why => .inr ⟨why, rfl⟩

/-! ### Formats `H0` and `E0` -/

theorem decodeBare_eq_ok_iff {i j : Instr} {w : List Byte} : decodeBare i w = .ok j ↔ w = [] ∧ j = i := by
  cases w <;> simp [decodeBare, eq_comm]

theorem decodeBare_rejected_iff (i : Instr) (w : List Byte) : Rejected (decodeBare i w) ↔ w.length ≠ 0 := by
  cases w <;> simp [decodeBare]

/-! ### Formats `HB` and `EB` -/

/-- A blob's bytes after its code and its length field. -/
theorem decodeBlob_bytes (mk : List Byte → Instr) {d : List Byte} (h : d.length ≤ 65535) :
    decodeBlob mk (bytes16 (len16 d) ++ d) = .ok (mk d) := by
  simp [decodeBlob, bytes16, len16_toNat d h]

theorem decodeBlob_bytes_of_ok {mk : List Byte → Instr} {w : List Byte} {i : Instr} (h : decodeBlob mk w = .ok i) :
    ∃ d, i = mk d ∧ w = bytes16 (len16 d) ++ d := by
  unfold decodeBlob at h
  split at h
  · split at h
    · rename_i nHi nLo d hd
      cases h
      exact ⟨d, rfl, by simp [bytes16, len16_of_toNat d _ hd]⟩
    · cases h
  · cases h

theorem decodeBlob_rejected_iff (mk : List Byte → Instr) (w : List Byte) : Rejected (decodeBlob mk w) ↔
    w.length < 2 ∨ w.length ≠ 2 + (be16 (byteAt w 0) (byteAt w 1)).toNat := by
  rcases w with _ | ⟨nHi, _ | ⟨nLo, d⟩⟩
  · simp [decodeBlob]
  · simp [decodeBlob]
  · simp only [decodeBlob, byteAt_zero, byteAt_succ, List.length_cons]
    split
    · simp; omega
    · simp; omega

/-! ### 32-bit operands -/

/-- Four bytes are one operand (spec 30_encoding.md R110). -/
theorem exists_operand {w : List Byte} (h : 4 ≤ w.length) : ∃ v rest, w = bytes32 v ++ rest := by
  match w, h with
  | b3 :: b2 :: b1 :: b0 :: rest, _ => exact ⟨be32 b3 b2 b1 b0, rest, by rw [bytes32_be32]; rfl⟩

theorem exists_four_operands {w : List Byte} (h : 16 ≤ w.length) :
    ∃ a b c d rest, w = bytes32 a ++ (bytes32 b ++ (bytes32 c ++ (bytes32 d ++ rest))) := by
  obtain ⟨a, w, rfl⟩ := exists_operand (w := w) (by omega)
  rw [List.length_append, bytes32_length] at h
  obtain ⟨b, w, rfl⟩ := exists_operand (w := w) (by omega)
  rw [List.length_append, bytes32_length] at h
  obtain ⟨c, w, rfl⟩ := exists_operand (w := w) (by omega)
  rw [List.length_append, bytes32_length] at h
  obtain ⟨d, w, rfl⟩ := exists_operand (w := w) (by omega)
  exact ⟨a, b, c, d, w, rfl⟩

/-! ### Format `HBLD` -/

theorem decodeBuild_operands (a b c d : Quad) :
    decodeBuild (bytes32 a ++ bytes32 b ++ bytes32 c ++ bytes32 d) = .ok (.build a b c d) := by
  simp [decodeBuild, bytes32, be32_of_bytes32]

theorem decodeBuild_operands_of_ok {w : List Byte} {i : Instr} (h : decodeBuild w = .ok i) :
    ∃ a b c d, i = .build a b c d ∧ w = bytes32 a ++ bytes32 b ++ bytes32 c ++ bytes32 d := by
  unfold decodeBuild at h
  split at h <;> cases h
  exact ⟨_, _, _, _, rfl, by simp [bytes32_be32]⟩

theorem decodeBuild_rejected_iff (w : List Byte) : Rejected (decodeBuild w) ↔ w.length ≠ 16 := by
  constructor
  · rintro h hlen
    obtain ⟨a, b, c, d, rest, rfl⟩ := exists_four_operands hlen.ge
    simp only [List.length_append, bytes32_length] at hlen
    cases List.length_eq_zero_iff.1 (show rest.length = 0 by omega)
    have hok := decodeBuild_operands a b c d
    simp only [List.append_assoc] at hok
    rw [List.append_nil, hok] at h
    exact not_rejected_ok _ h
  · intro h
    refine (ok_or_rejected _).resolve_left fun ⟨i, hi⟩ => h ?_
    obtain ⟨a, b, c, d, -, rfl⟩ := decodeBuild_operands_of_ok hi
    rfl

/-! ### Format `HCFG` -/

/-- The eight operands of CTL_START (spec 30_encoding.md R110). -/
def startOperands (a b c d m u r p : Quad) : List Byte :=
  bytes32 a ++ bytes32 b ++ bytes32 c ++ bytes32 d ++ bytes32 m ++ bytes32 u ++ bytes32 r ++ bytes32 p

theorem startOperands_length (a b c d m u r p : Quad) : (startOperands a b c d m u r p).length = 32 := rfl

theorem exists_startOperands {w : List Byte} (h : 32 ≤ w.length) :
    ∃ a b c d m u r p rest, w = startOperands a b c d m u r p ++ rest := by
  obtain ⟨a, b, c, d, w, rfl⟩ := exists_four_operands (w := w) (by omega)
  simp only [List.length_append, bytes32_length] at h
  obtain ⟨m, u, r, p, w, rfl⟩ := exists_four_operands (w := w) (by omega)
  exact ⟨a, b, c, d, m, u, r, p, w, by simp [startOperands]⟩

theorem encode_ctlStart (a b c d m u r p : Quad) (ep : List Byte) :
    encode (.ctlStart a b c d m u r p ep) =
      0x10#8 :: (startOperands a b c d m u r p ++ (bytes16 (len16 ep) ++ ep)) := by
  simp [encode, startOperands]

/-- CTL_START once its operands are read: the endpoint must be as long as its length field says. -/
theorem decodeStart_operands (a b c d m u r p : Quad) (eHi eLo : Byte) (ep : List Byte) :
    decodeStart (startOperands a b c d m u r p ++ eHi :: eLo :: ep) =
      if ep.length = (be16 eHi eLo).toNat then .ok (.ctlStart a b c d m u r p ep) else .reject .lengthMismatch := by
  simp [decodeStart, startOperands, bytes32, be32_of_bytes32]

theorem decodeStart_short {w : List Byte} (h : w.length < 34) : decodeStart w = .reject .lengthMismatch := by
  unfold decodeStart
  split
  · simp at h; omega
  · rfl

theorem exists_startEndpoint {w : List Byte} (h : 34 ≤ w.length) :
    ∃ a b c d m u r p eHi eLo ep, w = startOperands a b c d m u r p ++ eHi :: eLo :: ep := by
  obtain ⟨a, b, c, d, m, u, r, p, rest, rfl⟩ := exists_startOperands (w := w) (by omega)
  rw [List.length_append, startOperands_length] at h
  have hrest : 2 ≤ rest.length := by omega
  match rest, hrest with
  | eHi :: eLo :: ep, _ => exact ⟨a, b, c, d, m, u, r, p, eHi, eLo, ep, rfl⟩

theorem decodeStart_encode {a b c d m u r p : Quad} {ep : List Byte} (h : ep.length ≤ 65535) :
    decodeStart (startOperands a b c d m u r p ++ (bytes16 (len16 ep) ++ ep)) =
      .ok (.ctlStart a b c d m u r p ep) := by
  have hlen : ep.length = (be16 (hi8 (len16 ep)) (lo8 (len16 ep))).toNat := by simp [len16_toNat ep h]
  exact (decodeStart_operands ..).trans (if_pos hlen)

theorem decodeStart_encode_of_ok {w : List Byte} {i : Instr} (h : decodeStart w = .ok i) : encode i = 0x10#8 :: w := by
  by_cases hlen : w.length < 34
  · rw [decodeStart_short hlen] at h; cases h
  · obtain ⟨a, b, c, d, m, u, r, p, eHi, eLo, ep, rfl⟩ := exists_startEndpoint (not_lt.1 hlen)
    rw [decodeStart_operands] at h
    split at h <;> cases h
    rw [encode_ctlStart, len16_of_toNat ep _ ‹_›]
    simp [bytes16]

theorem decodeStart_rejected_iff (w : List Byte) : Rejected (decodeStart w) ↔
    w.length < 34 ∨ w.length ≠ 34 + (be16 (byteAt w 32) (byteAt w 33)).toNat := by
  by_cases hlen : w.length < 34
  · simp [decodeStart_short hlen, hlen]
  · obtain ⟨a, b, c, d, m, u, r, p, eHi, eLo, ep, rfl⟩ := exists_startEndpoint (not_lt.1 hlen)
    have h32 : byteAt (startOperands a b c d m u r p ++ eHi :: eLo :: ep) 32 = eHi :=
      byteAt_append_right (startOperands a b c d m u r p) _ 0
    have h33 : byteAt (startOperands a b c d m u r p ++ eHi :: eLo :: ep) 33 = eLo :=
      byteAt_append_right (startOperands a b c d m u r p) _ 1
    rw [decodeStart_operands, h32, h33, List.length_append, startOperands_length, List.length_cons, List.length_cons]
    split
    · simp; omega
    · simp; omega

/-! ### Request and response frames -/

/-- A request frame's pattern is read back whatever its fields hold (log 9). -/
theorem decodeRequest_encode_of_ok {w : List Byte} {i : Instr} (h : decodeRequest w = .ok i) :
    i.port = .request ∧ encode i = w := by
  unfold decodeRequest at h
  split at h
  · split_ifs at h
    · cases h; subst_vars; exact ⟨rfl, by simp [encode, requestBody, bytes16]⟩
    · cases h; subst_vars; exact ⟨rfl, by simp [encode, requestBody, bytes16]⟩
  · cases h

theorem decodeResponse_readHolding (slave bc : Byte) {data : List Byte} (lo hi : Byte) (h : data.length = bc.toNat) :
    decodeResponse (responseFrame slave 0x03#8 bc data lo hi) = .ok (.rspReadHoldingRegisters slave bc data lo hi) := by
  simp [responseFrame, decodeResponse, ← h]

theorem decodeResponse_readInput (slave bc : Byte) {data : List Byte} (lo hi : Byte) (h : data.length = bc.toNat) :
    decodeResponse (responseFrame slave 0x04#8 bc data lo hi) = .ok (.rspReadInputRegisters slave bc data lo hi) := by
  simp [responseFrame, decodeResponse, ← h]

/-- The register data of a decoded response is as long as its byte-count says (spec 30_encoding.md R106). -/
theorem decodeResponse_wellFormed {w : List Byte} {i : Instr} (h : decodeResponse w = .ok i) : i.wellFormed = true := by
  unfold decodeResponse at h
  split at h
  · split at h
    · split at h
      · rename_i bc rest _ _ lo hi hd
        have hlen : rest.length - bc.toNat = 2 := by rw [← List.length_drop, hd]; rfl
        have hdata : (rest.take bc.toNat).length = bc.toNat := by rw [List.length_take]; omega
        split at h <;> cases h <;> exact decide_eq_true hdata
      · cases h
    · cases h
  · cases h

/-! ### The two ports -/

/-- A decoded host word is the encoding of its command (spec 30_encoding.md R110, R111). -/
theorem decodeHost_encode_of_ok {w : List Byte} {i : Instr} (h : decodeHost w = .ok i) : encode i = w := by
  unfold decodeHost at h
  split at h
  · cases h
  · split_ifs at h <;> subst_vars
    · obtain ⟨d, rfl, rfl⟩ := decodeBlob_bytes_of_ok h; rfl
    · obtain ⟨a, b, c, d, rfl, rfl⟩ := decodeBuild_operands_of_ok h; rfl
    · obtain ⟨rfl, rfl⟩ := decodeBare_eq_ok_iff.1 h; rfl
    · obtain ⟨d, rfl, rfl⟩ := decodeBlob_bytes_of_ok h; rfl
    · obtain ⟨d, rfl, rfl⟩ := decodeBlob_bytes_of_ok h; rfl
    · exact decodeStart_encode_of_ok h
    · obtain ⟨rfl, rfl⟩ := decodeBare_eq_ok_iff.1 h; rfl
    · obtain ⟨rfl, rfl⟩ := decodeBare_eq_ok_iff.1 h; rfl

/-- The codes of the events of format `E0` (spec 30_encoding.md R121). -/
def bareEventCodes : List Byte := [0x20#8, 0x21#8, 0x22#8, 0x23#8, 0x24#8, 0x26#8, 0x27#8, 0x28#8, 0x29#8]

theorem decodeEvent_bare {op : Byte} (h : op ∈ bareEventCodes) :
    ∃ i, (∀ rest, decodeEvent (op :: rest) = decodeBare i rest) ∧ encode i = [op] ∧ i.wellFormed = true := by
  simp only [bareEventCodes, List.mem_cons, List.not_mem_nil, or_false] at h
  rcases h with rfl | rfl | rfl | rfl | rfl | rfl | rfl | rfl | rfl <;> exact ⟨_, fun _ => rfl, rfl, rfl⟩

theorem decodeEvent_rxData (rest : List Byte) : decodeEvent (0x25#8 :: rest) = decodeBlob .evRxData rest := rfl

theorem decodeEvent_unknown {op : Byte} (hb : op ∉ bareEventCodes) (hd : op ≠ 0x25#8) (rest : List Byte) :
    decodeEvent (op :: rest) = .reject (.unknownCode op) := by
  simp only [bareEventCodes, List.mem_cons, List.not_mem_nil, or_false, not_or] at hb
  simp [decodeEvent, hb, hd]

/-- A decoded event word is the encoding of its event, and the event is well formed (spec 30_encoding.md R120, R121). -/
theorem decodeEvent_encode_of_ok {w : List Byte} {i : Instr} (h : decodeEvent w = .ok i) :
    encode i = w ∧ i.wellFormed = true := by
  rcases w with _ | ⟨op, rest⟩
  · cases h
  · by_cases hb : op ∈ bareEventCodes
    · obtain ⟨j, hj, henc, hwf⟩ := decodeEvent_bare hb
      obtain ⟨rfl, rfl⟩ := decodeBare_eq_ok_iff.1 ((hj rest).symm.trans h)
      exact ⟨henc, hwf⟩
    · by_cases hd : op = 0x25#8
      · subst hd
        obtain ⟨d, rfl, hlen⟩ := decodeBlob_ok h
        obtain ⟨_, hmk, rfl⟩ := decodeBlob_bytes_of_ok h
        cases hmk
        exact ⟨rfl, decide_eq_true hlen⟩
      · rw [decodeEvent_unknown hb hd] at h; cases h

/-- The event words of no event (spec 30_encoding.md R122), by the code they begin with. -/
theorem decodeEvent_rejected_iff (op : Byte) (rest : List Byte) : Rejected (decodeEvent (op :: rest)) ↔
    op ∉ [0x20#8, 0x21#8, 0x22#8, 0x23#8, 0x24#8, 0x25#8, 0x26#8, 0x27#8, 0x28#8, 0x29#8] ∨
    (op ≠ 0x25#8 ∧ (op :: rest).length ≠ 1) ∨
    (op = 0x25#8 ∧ ((op :: rest).length < 3 ∨
      (op :: rest).length ≠ 3 + (be16 (byteAt (op :: rest) 1) (byteAt (op :: rest) 2)).toNat)) := by
  have codes : op ∈ [0x20#8, 0x21#8, 0x22#8, 0x23#8, 0x24#8, 0x25#8, 0x26#8, 0x27#8, 0x28#8, 0x29#8] ↔
      op ∈ bareEventCodes ∨ op = 0x25#8 := by
    simp only [bareEventCodes, List.mem_cons, List.not_mem_nil, or_false, or_assoc]
    simp only [or_comm (b := op = 0x25#8), or_left_comm (b := op = 0x25#8)]
  rw [codes]
  by_cases hb : op ∈ bareEventCodes
  · obtain ⟨i, hi, -⟩ := decodeEvent_bare hb
    have hd : op ≠ 0x25#8 := by rintro rfl; exact absurd hb (by decide)
    rw [hi, decodeBare_rejected_iff]
    simp [hb, hd]
  · by_cases hd : op = 0x25#8
    · subst hd
      rw [decodeEvent_rxData, decodeBlob_rejected_iff]
      simp [hb]
      omega
    · simp [decodeEvent_unknown hb hd, hb, hd]

theorem decodeHost_unknown {op : Byte}
    (h : op ∉ [0x01#8, 0x02#8, 0x03#8, 0x04#8, 0x05#8, 0x10#8, 0x11#8, 0x12#8]) (rest : List Byte) :
    decodeHost (op :: rest) = .reject (.unknownCode op) := by
  simp only [List.mem_cons, List.not_mem_nil, or_false, not_or] at h
  simp [decodeHost, h]

/-- The host words of no command (spec 30_encoding.md R114), by the code they begin with. -/
theorem decodeHost_rejected_iff (op : Byte) (rest : List Byte) : Rejected (decodeHost (op :: rest)) ↔
    op ∉ [0x01#8, 0x02#8, 0x03#8, 0x04#8, 0x05#8, 0x10#8, 0x11#8, 0x12#8] ∨
    (op ∈ [0x03#8, 0x11#8, 0x12#8] ∧ (op :: rest).length ≠ 1) ∨
    (op = 0x02#8 ∧ (op :: rest).length ≠ 17) ∨
    (op ∈ [0x01#8, 0x04#8, 0x05#8] ∧ ((op :: rest).length < 3 ∨
      (op :: rest).length ≠ 3 + (be16 (byteAt (op :: rest) 1) (byteAt (op :: rest) 2)).toNat)) ∨
    (op = 0x10#8 ∧ ((op :: rest).length < 35 ∨
      (op :: rest).length ≠ 35 + (be16 (byteAt (op :: rest) 33) (byteAt (op :: rest) 34)).toNat)) := by
  have blob {mk : List Byte → Instr} : Rejected (decodeBlob mk rest) ↔ rest.length + 1 < 3 ∨
      rest.length + 1 ≠ 3 + (be16 (byteAt rest 0) (byteAt rest 1)).toNat := by
    rw [decodeBlob_rejected_iff]; omega
  have start : Rejected (decodeStart rest) ↔ rest.length + 1 < 35 ∨
      rest.length + 1 ≠ 35 + (be16 (byteAt rest 32) (byteAt rest 33)).toNat := by
    rw [decodeStart_rejected_iff]; omega
  by_cases hk : op ∈ [0x01#8, 0x02#8, 0x03#8, 0x04#8, 0x05#8, 0x10#8, 0x11#8, 0x12#8]
  · simp only [List.mem_cons, List.not_mem_nil, or_false] at hk
    rcases hk with rfl | rfl | rfl | rfl | rfl | rfl | rfl | rfl
    · exact (blob (mk := .crc16)).trans (by simp)
    · exact (decodeBuild_rejected_iff rest).trans (by simp)
    · exact (decodeBare_rejected_iff .raReset rest).trans (by simp)
    · exact (blob (mk := .raFeed)).trans (by simp)
    · exact (blob (mk := .parse)).trans (by simp)
    · exact start.trans (by simp)
    · exact (decodeBare_rejected_iff .ctlCancel rest).trans (by simp)
    · exact (decodeBare_rejected_iff .ctlStatus rest).trans (by simp)
  · rw [decodeHost_unknown hk]
    exact iff_of_true (rejected_reject _) (.inl hk)

/-! ### Decode and encode agree -/

/-- Settles O1, format by format. -/
theorem decodeEncodeAgree : Obligations.DecodeEncodeAgree := by
  intro i hw
  cases i
  case crc16 d => exact decodeBlob_bytes .crc16 (of_decide_eq_true hw)
  case build a b c d => exact decodeBuild_operands a b c d
  case raFeed d => exact decodeBlob_bytes .raFeed (of_decide_eq_true hw)
  case parse f => exact decodeBlob_bytes .parse (of_decide_eq_true hw)
  case ctlStart =>
    rw [encode_ctlStart]
    exact decodeStart_encode (of_decide_eq_true hw)
  case evRxData d => exact decodeBlob_bytes .evRxData (of_decide_eq_true hw)
  case reqReadHoldingRegisters => exact decodeRequest_encode_readHolding ..
  case reqReadInputRegisters => exact decodeRequest_encode_readInput ..
  case rspReadHoldingRegisters => exact decodeResponse_readHolding _ _ _ _ (of_decide_eq_true hw)
  case rspReadInputRegisters => exact decodeResponse_readInput _ _ _ _ (of_decide_eq_true hw)
  all_goals rfl

/-- Settles O2, port by port. -/
theorem decodedWordReencodes : Obligations.DecodedWordReencodes := by
  intro p w i h
  cases p with
  | host =>
    obtain ⟨hport, hwf⟩ := decodeHost_ok h
    exact ⟨hport, decodeHost_encode_of_ok h, fun _ => hwf⟩
  | event =>
    obtain ⟨henc, hwf⟩ := decodeEvent_encode_of_ok h
    exact ⟨decodeEvent_ok h, henc, fun _ => hwf⟩
  | request =>
    obtain ⟨hport, henc⟩ := decodeRequest_encode_of_ok h
    exact ⟨hport, henc, fun hne => absurd rfl hne⟩
  | response =>
    obtain ⟨henc, hi⟩ := decodeResponse_ok h
    have hport : i.port = .response := by
      obtain ⟨_, _, _, _, _, rfl⟩ | ⟨_, _, _, _, _, rfl⟩ := hi <;> rfl
    exact ⟨hport, henc, fun _ => decodeResponse_wellFormed h⟩

/-- Settles O5. -/
theorem writtenWordsDecode : Obligations.WrittenWordsDecode := by
  unfold Obligations.WrittenWordsDecode
  decide

/-! ### Malformed words -/

theorem hostStep_rejected {w : List Byte} (h : Rejected (decodeHost w)) (s : State) :
    hostStep w s = .refused .illegalCommand := by
  obtain ⟨why, hd⟩ := h
  simp [hostStep, hd]

/-- An illegal host word is passed over (spec 60_exceptions.md R337; log 8). -/
theorem step_host_rejected {s : State} {w : List Byte} {rest : List Arrival} (hp : s.pending = .host w :: rest)
    (hr : Rejected (decodeHost w)) : step s = step { s with pending := rest, resp := s.resp ++ [.illegalCommand] } :=
  step_refused hp (hostStep_rejected hr _) rfl

/-- Settles O3: the words of R114 by their code, and what a step does with one. -/
theorem illegalHostWords : Obligations.IllegalHostWords := by
  intro w
  refine ⟨?_, fun hr s rest hp => step_host_rejected hp hr, ok_or_rejected _⟩
  rcases w with _ | ⟨op, rest⟩
  · exact iff_of_true (rejected_reject .emptyWord) (.inl rfl)
  · refine (decodeHost_rejected_iff op rest).trans ⟨fun h => .inr ⟨op, rest, rfl, h⟩, ?_⟩
    rintro (h | ⟨_, _, h, hbad⟩) <;> cases h
    exact hbad

theorem stop_eq_stoppedState (r : StopReason) (s : State) : stop r s = stoppedState r (stopKind r) s := by
  cases h : s.connOpen <;>
    simp [stop, endAttempt, closeConnection, clearAttempt, emit, goto, stoppedState, teardownWords, h]

/-- A word of no event is an unexpected event (spec 30_encoding.md R122). -/
theorem step_event_rejected {s : State} {w : List Byte} {rest : List Arrival} (hp : s.pending = .event w :: rest)
    (ht : transient s.ctlState = false) (hr : Rejected (decodeEvent w)) :
    step s = .next (unexpected { s with pending := rest }) := by
  obtain ⟨why, hd⟩ := hr
  rw [step_event_resting hp ht]
  simp [eventStep, hd]

/-- Settles O4: such a word decodes to no event. -/
theorem malformedEventWords : Obligations.MalformedEventWords := by
  intro s w rest hp ht hw
  have hr : Rejected (decodeEvent w) := by
    obtain rfl | ⟨op, tail, rfl, hbad⟩ := hw
    · exact rejected_reject .emptyWord
    · exact (decodeEvent_rejected_iff op tail).2 hbad
  rw [step_event_rejected hp ht hr, unexpected, stop_eq_stoppedState]
  rfl

end Sys2Proof.Machine
end

section
/-! PROOFS. Which host words are refused (O57), and one response for each host word a step takes and for nothing else
(O48). -/

namespace Sys2Proof.Machine

open Sys2Proof.Safety

/-! ### Refused host words -/

theorem hostOwnsBuffer_iff (c : CtlState) : hostOwnsBuffer c = true ↔ c = .idle ∨ c = .stopped := by
  cases c <;> simp [hostOwnsBuffer]

theorem not_hostOwnsBuffer_iff (c : CtlState) : hostOwnsBuffer c = false ↔ c ≠ .idle ∧ c ≠ .stopped := by
  rw [← Bool.not_eq_true, hostOwnsBuffer_iff, not_or]

theorem exec_raReset_refused {s : State} (h : hostOwnsBuffer s.ctlState = false) :
    exec .raReset s = .refused .illegalState := by simp [exec, execRaReset, h]

theorem exec_raFeed_refused {s : State} (d : List Byte) (h : hostOwnsBuffer s.ctlState = false) :
    exec (.raFeed d) s = .refused .illegalState := by simp [exec, execRaFeed, h]

theorem exec_raFeed_capacity {s : State} {d : List Byte} (h : hostOwnsBuffer s.ctlState = true) (hd : d ≠ [])
    (hc : s.par.rxBufCap < s.rxBuf.length + d.length) : exec (.raFeed d) s = .refused .capacity := by
  simp [exec, execRaFeed, h, hd, hc]

theorem exec_ctlStart_refused {s : State} (a b c d m u r p : Quad) (ep : List Byte) (h : s.ctlState ≠ .idle) :
    exec (.ctlStart a b c d m u r p ep) s = .refused .illegalState := by simp [exec, execCtlStart, h]

/-- The three statuses of a refusal (spec 30_encoding.md R113). -/
theorem responseBytes_refusal {a : HostResponse} (h : a ∈ [HostResponse.illegalCommand, .illegalState, .capacity]) :
    responseBytes a ∈ [[0x80#8], [0x81#8], [0x82#8]] := by
  simp only [List.mem_cons, List.not_mem_nil, or_false] at h
  rcases h with rfl | rfl | rfl <;> simp [responseBytes]

/-- Settles O57: the refusals of `exec` command by command, and the step that passes over a refused word. -/
theorem refusedHostWords : Obligations.RefusedHostWords := by
  refine ⟨fun s w => ⟨?_, ?_⟩, fun s w rest r hp hw => ?_⟩
  · rintro ⟨r, hw⟩
    obtain ⟨hrej, -⟩ | ⟨i, hd, he⟩ := hostStep_refused hw
    · exact .inl hrej
    · obtain ⟨-, ho, hi⟩ | ⟨-, ho, d, rfl, hne, hcap⟩ | ⟨-, hs, a, b, c, d, m, u, r, p, ep, rfl⟩ := exec_refused he
      · obtain ⟨hidle, hstop⟩ := (not_hostOwnsBuffer_iff _).1 ho
        refine .inr (.inl ⟨hidle, hstop, ?_⟩)
        obtain rfl | ⟨d, rfl⟩ := hi
        · exact .inl hd
        · exact .inr ⟨d, hd⟩
      · exact .inr (.inr (.inl ⟨(hostOwnsBuffer_iff _).1 ho, d, hd, hne, hcap⟩))
      · exact .inr (.inr (.inr ⟨hs, a, b, c, d, m, u, r, p, ep, hd⟩))
  · rintro (hrej | ⟨hidle, hstop, hd | ⟨d, hd⟩⟩ | ⟨hs, d, hd, hne, hcap⟩ | ⟨hs, a, b, c, d, m, u, r, p, ep, hd⟩)
    · exact ⟨_, hostStep_rejected hrej s⟩
    · exact ⟨_, (hostStep_decoded hd s).trans (exec_raReset_refused ((not_hostOwnsBuffer_iff _).2 ⟨hidle, hstop⟩))⟩
    · exact ⟨_, (hostStep_decoded hd s).trans (exec_raFeed_refused d ((not_hostOwnsBuffer_iff _).2 ⟨hidle, hstop⟩))⟩
    · exact ⟨_, (hostStep_decoded hd s).trans (exec_raFeed_capacity ((hostOwnsBuffer_iff _).2 hs) hne hcap)⟩
    · exact ⟨_, (hostStep_decoded hd s).trans (exec_ctlStart_refused a b c d m u r p ep hs)⟩
  · obtain ⟨a, ha, hm⟩ := hostStep_refused_response hw
    exact ⟨a, ha, responseBytes_refusal hm, step_refused hp hw ha⟩

/-! ### What gives no response -/

/-- `t` has the responses and the arrivals of `s`. -/
structure Silent (s t : State) : Prop where
  resp : t.resp = s.resp
  pending : t.pending = s.pending

theorem silent_stop (r : StopReason) (s : State) : Silent s (stop r s) := ⟨by simp, by simp⟩

theorem silent_unexpected (s : State) : Silent s (unexpected s) := by
  by_cases h : s.ctlState = .stopped
  · rw [unexpected_stopped h]; exact ⟨rfl, rfl⟩
  · rw [unexpected_running h]; exact silent_stop _ s

theorem silent_raiseError (e : Err) (s : State) : Silent s (raiseError e s) := by
  cases h : errClass e with
  | retryable => rw [raiseError_retryable s h]; exact ⟨rfl, rfl⟩
  | fatal => rw [raiseError_fatal s h]; exact ⟨rfl, rfl⟩
  | constructionTime => rw [raiseError_construction s h]; exact silent_stop _ s

theorem silent_enterRetryWait (c : Cfg) (s : State) : Silent s (enterRetryWait c (endAttempt s)) := by
  rcases enterRetryWait_cases c (endAttempt s) with ⟨-, h⟩ | ⟨-, h⟩ <;> rw [h] <;> exact ⟨by simp, by simp⟩

theorem silent_reportAndSleep (c : Cfg) (w : OutWord) (s : State) :
    Silent s (enterPollSleep c (emit w (endAttempt s))) := by
  rcases enterPollSleep_cases c (emit w (endAttempt s)) with ⟨-, h⟩ | ⟨-, h⟩ <;> rw [h] <;> exact ⟨by simp, by simp⟩

/-- No internal step gives a response or takes an arrival (spec 44_controller.md R274 to R279). -/
theorem internalStep_silent {s t : State} (h : internalStep s = .next t) : Silent s t := by
  cases ht : transient s.ctlState
  · rw [internalStep_resting ht] at h
    cases h; exact ⟨rfl, rfl⟩
  · rcases internalStep_next ht h with ⟨-, rfl⟩ | ⟨-, h⟩ | ⟨-, h⟩ | ⟨-, h⟩ | ⟨-, h⟩
    · exact ⟨rfl, rfl⟩
    · obtain ⟨r, -, rfl⟩ | ⟨e, -, rfl⟩ := interpretStep_next h
      · exact ⟨rfl, rfl⟩
      · exact silent_raiseError e s
    · obtain ⟨r, c, -, -, rfl⟩ := successStep_next h
      exact silent_reportAndSleep c _ s
    · obtain ⟨c, -, ⟨-, rfl⟩ | ⟨-, e, -, rfl⟩⟩ := retryableStep_next h
      · exact silent_enterRetryWait c s
      · exact silent_reportAndSleep c _ s
    · obtain ⟨c, -, rfl⟩ := fatalStep_next h
      exact silent_reportAndSleep c _ s

/-- In a resting state an event has its effect or is unexpected. -/
theorem takeEvent_silent {i : Instr} {s t : State} {e : Answer} (ht : transient s.ctlState = false)
    (h : takeEvent i s e = .next t) (effect : e = .next t → Silent s t) : Silent s t := by
  rcases takeEvent_next h with ⟨hw, -⟩ | ⟨-, -, he⟩ | ⟨-, -, rfl⟩
  · rw [ht] at hw; cases hw
  · exact effect he
  · exact silent_unexpected s

theorem takeEvent_raiseError_silent {i : Instr} {s t : State} {e : Err} (ht : transient s.ctlState = false)
    (h : takeEvent i s (.next (raiseError e s)) = .next t) : Silent s t :=
  takeEvent_silent ht h fun he => by cases he; exact silent_raiseError e s

theorem exec_event_silent {i : Instr} {s t : State} (hi : i.port = .event) (ht : transient s.ctlState = false)
    (h : exec i s = .next t) : Silent s t := by
  cases i <;> cases hi
  case evConnectOk =>
    refine takeEvent_silent ht h fun he => ?_
    obtain ⟨c, -, he⟩ := withCfg_next he
    split at he <;> cases he
    exact ⟨rfl, rfl⟩
  case evConnectRefused => exact takeEvent_raiseError_silent ht h
  case evConnectError => exact takeEvent_raiseError_silent ht h
  case evSendOk =>
    refine takeEvent_silent ht h fun he => ?_
    split at he <;> cases he
    · exact silent_raiseError _ s
    · exact ⟨rfl, rfl⟩
  case evSendError => exact takeEvent_raiseError_silent ht h
  case evRxData d =>
    refine takeEvent_silent ht h fun he => ?_
    dsimp only at he
    split_ifs at he <;> cases he
    · exact silent_raiseError _ s
    · exact ⟨rfl, rfl⟩
    · exact ⟨rfl, rfl⟩
    · exact ⟨rfl, rfl⟩
  case evRxError => exact takeEvent_raiseError_silent ht h
  case evRxTimeout => exact takeEvent_raiseError_silent ht h
  case evDeadline => exact takeEvent_silent ht h fun he => by cases he; exact ⟨rfl, rfl⟩
  case evTimerDone =>
    refine takeEvent_silent ht h fun he => ?_
    obtain ⟨c, -, he⟩ := withCfg_next he
    split at he <;> cases he
    · exact ⟨rfl, rfl⟩
    · exact ⟨rfl, rfl⟩

theorem eventStep_silent {w : List Byte} {s t : State} (ht : transient s.ctlState = false)
    (h : eventStep w s = .next t) : Silent s t := by
  unfold eventStep at h
  split at h
  · exact exec_event_silent (decodeEvent_ok ‹_›) ht h
  · cases h; exact silent_unexpected s

/-- A step with no host word next gives no response, and takes at most the one arrival that is next. -/
theorem step_silent {s t : State} (hn : ∀ w rest, s.pending ≠ .host w :: rest) (h : step s = .next t) :
    t.resp = s.resp ∧ ∃ taken, s.pending = taken ++ t.pending ∧ taken.filter isHostWord = [] := by
  rcases step_cases s with ⟨-, he⟩ | ⟨w, rest, hp, -⟩ | ⟨w, rest, a, hp, -⟩ | ⟨w, rest, -, -, he⟩ |
    ⟨w, rest, hp, ht, he⟩ | ⟨rest, hp, he⟩
  · obtain ⟨hresp, hpend⟩ := internalStep_silent (he ▸ h)
    exact ⟨hresp, [], hpend.symm, rfl⟩
  · exact absurd hp (hn w rest)
  · exact absurd hp (hn w rest)
  · obtain ⟨hresp, hpend⟩ := internalStep_silent (he ▸ h)
    exact ⟨hresp, [], hpend.symm, rfl⟩
  · obtain ⟨hresp, hpend⟩ := eventStep_silent (s := { s with pending := rest }) ht (he ▸ h)
    exact ⟨hresp, [.event w], by rw [hp, hpend]; rfl, rfl⟩
  · obtain ⟨hresp, hpend⟩ := internalStep_silent (he ▸ h)
    exact ⟨hresp, [.internal], by rw [hp, hpend]; rfl, rfl⟩

/-! ### What gives one response -/

/-- The command completes with exactly one response and takes no arrival. -/
def Responds (s : State) (a : Answer) : Prop :=
  ∃ t r, a = .next t ∧ t.resp = s.resp ++ [r] ∧ t.pending = s.pending

/-- The response given between two silent operations. -/
theorem responds_next {s u t : State} (r : HostResponse) (before : Silent s u) (after : Silent (respond r u) t) :
    Responds s (.next t) :=
  ⟨t, r, rfl, by rw [after.resp, respond_resp, before.resp], by rw [after.pending, respond_pending, before.pending]⟩

theorem responds_respond (r : HostResponse) (s : State) : Responds s (.next (respond r s)) :=
  responds_next r ⟨rfl, rfl⟩ ⟨rfl, rfl⟩

/-- A host command completes with one response, unless it is refused (spec 30_encoding.md R113, 60_exceptions.md
R337). -/
theorem exec_host_responds {i : Instr} {s : State} (hi : i.port = .host) (hn : ∀ r, exec i s ≠ .refused r) :
    Responds s (exec i s) := by
  cases i <;> cases hi
  case crc16 => exact responds_respond _ s
  case build =>
    simp only [exec, execBuild]
    split <;> exact responds_respond _ s
  case raReset =>
    simp only [exec, execRaReset] at hn ⊢
    split at hn
    · rw [if_pos ‹_›]; exact responds_next (u := clearRx s) _ ⟨rfl, rfl⟩ ⟨rfl, rfl⟩
    · exact absurd rfl (hn _)
  case raFeed d =>
    simp only [exec, execRaFeed] at hn ⊢
    split_ifs at hn ⊢
    · exact responds_respond _ s
    · exact absurd rfl (hn _)
    · exact responds_next (u := appendRx d s) _ ⟨rfl, rfl⟩ ⟨rfl, rfl⟩
    · exact absurd rfl (hn _)
  case parse =>
    simp only [exec, execParse]
    split <;> exact responds_respond _ s
  case ctlStart =>
    simp only [exec, execCtlStart] at hn ⊢
    split_ifs at hn ⊢
    · exact absurd rfl (hn _)
    · exact ⟨_, _, rfl, rfl, rfl⟩
    · exact responds_next (u := s) _ ⟨rfl, rfl⟩ (silent_raiseError _ _)
  case ctlCancel =>
    simp only [exec, execCtlCancel]
    split
    · exact responds_next (u := { s with cancelPending := true }) _ ⟨rfl, rfl⟩ (silent_stop _ _)
    · exact ⟨_, _, rfl, rfl, rfl⟩
  case ctlStatus => exact responds_respond _ s

theorem hostStep_responds {w : List Byte} {s : State} (hn : ∀ r, hostStep w s ≠ .refused r) :
    Responds s (hostStep w s) := by
  obtain ⟨i, hd⟩ | hrej := ok_or_rejected (decodeHost w)
  · rw [hostStep_decoded hd] at hn ⊢
    exact exec_host_responds (decodeHost_ok hd).1 hn
  · exact absurd (hostStep_rejected hrej s) (hn _)

/-- A host word that is not refused is taken by a step of its own. -/
theorem step_host_responds {s : State} {w : List Byte} {rest : List Arrival} (hp : s.pending = .host w :: rest)
    (hr : refusedArrival s (.host w) = false) :
    ∃ t r, step s = .next t ∧ t.resp = s.resp ++ [r] ∧ t.pending = rest := by
  have hn (r : Refusal) : hostStep w { s with pending := rest } ≠ .refused r := by
    intro h
    rw [← refusedArrival_congr s s.resp rest, Bool.eq_false_iff] at hr
    exact hr (refusedArrival_iff.2 ⟨w, r, rfl, h⟩)
  rw [step_host hp hn]
  exact hostStep_responds hn

/-- A refused host word is passed over with one response. -/
theorem step_host_passed {s : State} {w : List Byte} {rest : List Arrival} (hp : s.pending = .host w :: rest)
    (hr : refusedArrival s (.host w) = true) :
    ∃ r, step s = step { s with pending := rest, resp := s.resp ++ [r] } := by
  obtain ⟨_, r, hw, h⟩ := refusedArrival_iff.1 ((refusedArrival_congr s s.resp rest _).trans hr)
  cases hw
  obtain ⟨a, ha, -⟩ := hostStep_refused_response h
  exact ⟨a, step_refused hp h ha⟩

/-- As many responses as host words, over everything a step takes. -/
theorem step_responses (s t : State) (h : step s = .next t) : ∃ taken responses, s.pending = taken ++ t.pending ∧
    t.resp = s.resp ++ responses ∧ responses.length = (taken.filter isHostWord).length := by
  revert t
  induction s using step_induction with
  | passes s w rest a hp hr he ih =>
    intro t h
    obtain ⟨taken, responses, hpend, hresp, hlen⟩ := ih t (he ▸ h)
    have hpend : rest = taken ++ t.pending := hpend
    have hresp : t.resp = (s.resp ++ [a]) ++ responses := hresp
    exact ⟨.host w :: taken, a :: responses, by rw [hp, hpend]; rfl, by simp [hresp], by
      rw [List.length_cons, hlen]; rfl⟩
  | takes s hn =>
    intro t h
    by_cases hw : ∃ w rest, s.pending = .host w :: rest
    · obtain ⟨w, rest, hp⟩ := hw
      obtain ⟨t', r, hs, hresp, hpend⟩ := step_host_responds hp (hn w rest hp)
      cases hs.symm.trans h
      exact ⟨[.host w], [r], by rw [hp, hpend]; rfl, hresp, rfl⟩
    · obtain ⟨hresp, taken, hpend, hnone⟩ := step_silent (fun w rest hp => hw ⟨w, rest, hp⟩) h
      exact ⟨taken, [], hpend, by simp [hresp], by rw [hnone]; rfl⟩

/-- Settles O48. -/
theorem oneResponsePerCommand : Obligations.OneResponsePerCommand :=
  ⟨fun _ _ _ hp => ⟨step_host_responds hp, step_host_passed hp⟩, fun _ _ hn h => (step_silent hn h).1, step_responses⟩

end Sys2Proof.Machine
end

section
/-! PROOFS. The bytes of the output words (O6), and the frames of the table as instructions: a request frame in
CONNECTING (O13), a response frame in PARSING (O22). -/

namespace Sys2Proof.Machine

open Sys2Proof.Safety

/-! ### Operands as shifts and cuts -/

theorem bytes32_eq (v : Quad) :
    bytes32 v = [(v >>> 24).setWidth 8, (v >>> 16).setWidth 8, (v >>> 8).setWidth 8, v.setWidth 8] := by
  simp [bytes32, extract8_eq]

theorem bytes16_eq (v : Half) : bytes16 v = [(v >>> 8).setWidth 8, v.setWidth 8] := by
  simp [bytes16, hi8, lo8, extract8_eq]

/-- A count as a `u16` field: its quotient and its remainder by 256. -/
theorem bytes16_ofNat (n : Nat) :
    bytes16 (BitVec.ofNat 16 n) = [BitVec.ofNat 8 (n / 256), BitVec.ofNat 8 (n % 256)] := by
  rw [bytes16_eq]
  congr 1
  · apply BitVec.eq_of_toNat_eq
    simp [Nat.shiftRight_eq_div_pow]
    omega
  · congr 1
    apply BitVec.eq_of_toNat_eq
    simp

theorem regBytes_eq (rs : List Half) :
    regBytes rs = rs.flatMap (fun v : Half => [(v >>> 8).setWidth 8, v.setWidth 8]) := by
  induction rs with
  | nil => rfl
  | cons r rs ih => rw [regBytes, ih, bytes16_eq]; rfl

theorem infoBytes_crcMismatch (received computed : Half) :
    infoBytes (.crcMismatch received computed) = 4#8 :: (bytes16 received ++ bytes16 computed) := rfl

/-- Only CrcMismatch has info (spec 60_exceptions.md R323). -/
theorem infoBytes_empty {e : Err} (h : ∀ rcv cmp, e ≠ .crcMismatch rcv cmp) : infoBytes e = [0#8] := by
  cases e
  case crcMismatch rcv cmp => exact absurd rfl (h rcv cmp)
  all_goals rfl

/-- Settles O6, word by word. -/
theorem outputWordLayout : Obligations.OutputWordLayout := by
  refine ⟨fun t ep _ => ?connect, fun f => rfl, fun m => ?receive, rfl, fun t => ?armDeadline, rfl, fun t => ?timer,
    fun r _ => ?reportSuccess, fun rcv cmp n => ?crcMismatch, fun e n he => ?reportFailure, fun r k => rfl,
    fun r => ?stopKind⟩
  case connect => simp [outBytes, len16, bytes32_eq, bytes16_ofNat]
  case receive => simp [outBytes, bytes16_eq]
  case armDeadline => simp [outBytes, bytes32_eq]
  case timer => simp [outBytes, bytes32_eq]
  case reportSuccess => simp [outBytes, readingBytes, bytes16_ofNat, regBytes_eq]
  case crcMismatch => simp [outBytes, errCode, infoBytes_crcMismatch, bytes32_eq, bytes16_eq]
  case reportFailure => simp [outBytes, infoBytes_empty he, bytes32_eq]
  case stopKind => cases r <;> rfl

/-! ### Request frames -/

theorem requestOctets_eq (slave fc : Byte) (start count : Half) :
    requestOctets slave fc start count =
      requestBody slave fc start count ++ crcBytes (requestBody slave fc start count) := rfl

/-- The CRC of a well-formed request frame is that of its fields (spec 30_encoding.md R100, R103). -/
theorem requestFields_octets {slave fc : Byte} {start count : Half} {lo hi : Byte}
    (h : requestFields slave fc start count lo hi = true) :
    requestBody slave fc start count ++ [lo, hi] = requestOctets slave fc start count := by
  simp only [requestFields, Bool.and_eq_true, decide_eq_true_eq] at h
  obtain ⟨-, hcrc⟩ := h
  rw [hcrc, requestOctets_eq]

/-- The fields R100 allows are fields that `build` accepts (spec 41_frame_builder.md R170, R171): they make a legal
configuration. -/
theorem build_requestFields {slave fc : Byte} {start count : Half} {lo hi : Byte}
    (hfc : fc = 0x03#8 ∨ fc = 0x04#8) (h : requestFields slave fc start count lo hi = true) :
    build (Int.ofNat slave.toNat) (Int.ofNat fc.toNat) (Int.ofNat start.toNat) (Int.ofNat count.toNat) =
      .ok (requestOctets slave fc start count) := by
  simp only [requestFields, Bool.and_eq_true, decide_eq_true_eq] at h
  obtain ⟨⟨hslave, hcount⟩, -⟩ := h
  have legal : cfgLegal { plainCfg with slave := slave, func := fc, start := start, count := count } = true :=
    (cfgLegal_iff _).2 ⟨hslave, hfc, hcount, by simp [plainCfg], by simp [plainCfg], Nat.zero_le _⟩
  have built := buildCfg_legal legal
  exact built

/-- A well-formed request goes out from CONNECTING, whatever the configuration's own fields are. -/
theorem sendRequest_sends {slave fc : Byte} {start count : Half} {lo hi : Byte} {s : State} {c : Cfg}
    (hfc : fc = 0x03#8 ∨ fc = 0x04#8) (h : requestFields slave fc start count lo hi = true) (hc : s.cfg = some c)
    (hs : s.ctlState = .connecting) :
    sendRequest slave fc start count (requestBody slave fc start count ++ [lo, hi]) s =
      .next (openAndSend c (requestOctets slave fc start count) s) := by
  rw [sendRequest, if_pos hs, withCfg_some hc, requestFields_octets h, if_pos (build_requestFields hfc h)]

theorem sendRequest_elsewhere {s : State} (hs : s.ctlState ≠ .connecting) (slave fc : Byte) (start count : Half)
    (frame : List Byte) : sendRequest slave fc start count frame s = .next s := if_neg hs

theorem openAndSend_eq (c : Cfg) (frame : List Byte) (s : State) : openAndSend c frame s = { s with
    connOpen := true, req := some frame, ctlState := .sending,
    out := s.out ++ [.armDeadline c.timeout, .send frame] } := by
  simp [openAndSend, goto, emit]

/-- Settles O13, one function code after the other. -/
theorem requestFramesSent : Obligations.RequestFramesSent := by
  intro slave start count lo hi s
  refine ⟨fun hw c hc hs => ?_, fun hw c hc hs => ?_, fun hs => ⟨?_, ?_⟩⟩
  · rw [← openAndSend_eq]
    exact sendRequest_sends (.inl rfl) hw hc hs
  · rw [← openAndSend_eq]
    exact sendRequest_sends (.inr rfl) hw hc hs
  · exact sendRequest_elsewhere hs ..
  · exact sendRequest_elsewhere hs ..

/-! ### Response frames -/

theorem takeResponse_parsing {s : State} (hs : s.ctlState = .parsing) (frame : List Byte) :
    takeResponse frame s = .next (parseFrame frame s) := if_pos hs

theorem takeResponse_elsewhere {s : State} (hs : s.ctlState ≠ .parsing) (frame : List Byte) :
    takeResponse frame s = .next s := if_neg hs

/-- Settles O22, one function code after the other. -/
theorem responseFramesParsed : Obligations.ResponseFramesParsed := by
  intro slave bc data lo hi s
  refine ⟨fun hs => ⟨?_, ?_⟩, fun hs => ⟨?_, ?_⟩⟩
  · exact takeResponse_parsing hs (responseFrame slave 0x03#8 bc data lo hi)
  · exact takeResponse_parsing hs (responseFrame slave 0x04#8 bc data lo hi)
  · exact takeResponse_elsewhere hs _
  · exact takeResponse_elsewhere hs _

end Sys2Proof.Machine
end

section
/-! PROOFS. The CRC Engine: the register byte by byte (O7), the sequence closed by its own checksum (O9), the check value
(O8) and the command (O10). -/

namespace Sys2Proof.Machine

/-! ### The shift register -/

theorem crcShifts_eq_iterate (k : Nat) (c : Half) : crcShifts k c = crcShift^[k] c := by
  induction k generalizing c with
  | zero => rfl
  | succ k ih => exact ih (crcShift c)

theorem crc16_snoc (s : List Byte) (b : Byte) : crc16 (s ++ [b]) = crcStep (crc16 s) b := crc16_append s [b]

/-- Settles O7. -/
theorem crcByBytes : Obligations.CrcByBytes := by
  refine ⟨rfl, fun s b => ?_⟩
  rw [crc16_snoc, crcStep, crcShifts_eq_iterate]
  rfl

/-! ### A sequence followed by its own checksum -/

/-- No 1 drops out while the low bits are 0, so the polynomial never goes in (spec 40_crc.md R150). -/
theorem crcShifts_of_low_zero {k : Nat} {c : Half} (h : ∀ i < k, c.getLsbD i = false) : crcShifts k c = c >>> k := by
  induction k generalizing c with
  | zero => simp [crcShifts]
  | succ k ih =>
    have noDrop : crcShift c = c >>> 1 := if_neg (by rw [h 0 k.succ_pos]; decide)
    have low : ∀ i < k, (c >>> 1).getLsbD i = false := by
      intro i hi
      rw [BitVec.getLsbD_ushiftRight]
      exact h _ (by omega)
    rw [crcShifts, noDrop, ih low, ← BitVec.shiftRight_add, Nat.add_comm]

/-- The register's own low byte empties the low half, and the eight shifts bring the high half down. -/
theorem crcStep_lo8 (c : Half) : crcStep c (lo8 c) = (hi8 c).setWidth 16 := by
  have low : ∀ i < 8, (c ^^^ (lo8 c).zeroExtend 16).getLsbD i = false := by
    intro i hi
    simp [lo8, hi, show i < 16 by omega]
  rw [crcStep, crcShifts_of_low_zero low]
  ext i hi
  by_cases h : i < 8
  · simp [lo8, hi8, h]
  · simp [lo8, hi8, h, BitVec.getLsbD_of_ge c (8 + i) (by omega)]

/-- A register that holds one byte only is emptied by that byte. -/
theorem crcStep_setWidth_self (b : Byte) : crcStep (b.setWidth 16) b = 0#16 := by
  rw [crcStep, BitVec.xor_self]
  rfl

/-- Settles O9: the low byte leaves the register's high byte, and the high byte cancels that. -/
theorem crcResidueZero : Obligations.CrcResidueZero := by
  intro s
  calc crc16 (s ++ [lo8 (crc16 s), hi8 (crc16 s)])
      = crcStep (crcStep (crc16 s) (lo8 (crc16 s))) (hi8 (crc16 s)) := crc16_append ..
    _ = crcStep ((hi8 (crc16 s)).setWidth 16) (hi8 (crc16 s)) := by rw [crcStep_lo8]
    _ = 0#16 := crcStep_setWidth_self _

/-! ### The check value -/

/-- The register through the nine bytes of "123456789", byte by byte (spec 40_crc.md R155). -/
theorem crcStep_checkBytes :
    crcStep Config.crcInit 0x31#8 = 0x947E#16 ∧ crcStep 0x947E#16 0x32#8 = 0xF595#16 ∧
    crcStep 0xF595#16 0x33#8 = 0x7A75#16 ∧ crcStep 0x7A75#16 0x34#8 = 0x30BA#16 ∧
    crcStep 0x30BA#16 0x35#8 = 0xA471#16 ∧ crcStep 0xA471#16 0x36#8 = 0x32E4#16 ∧
    crcStep 0x32E4#16 0x37#8 = 0x9D73#16 ∧ crcStep 0x9D73#16 0x38#8 = 0x37DD#16 ∧
    crcStep 0x37DD#16 0x39#8 = 0x4B37#16 := by decide

/-- Settles O8, along the registers. -/
theorem crcCheckValue : Obligations.CrcCheckValue := by
  have check : crc16 [0x31#8, 0x32#8, 0x33#8, 0x34#8, 0x35#8, 0x36#8, 0x37#8, 0x38#8, 0x39#8] = 0x4B37#16 := by
    simp only [crc16_eq, crcFrom_cons, crcFrom_nil, crcStep_checkBytes]
  refine ⟨check, ?_, ?_⟩
  · rw [crcBytes, check]
    rfl
  · simp [crc16_eq, List.range_succ, crcStep_checkBytes]

/-! ### The command -/

theorem exec_crc16 (d : List Byte) (s : State) : exec (.crc16 d) s = .next (respond (.ok (crcBytes d)) s) := rfl

/-- A blob without its last byte: the length field, or what it counts, is short (spec 30_encoding.md R114). -/
theorem decodeBlob_dropLast_rejected (mk : List Byte → Instr) {d : List Byte} (h : d.length ≤ 65535) :
    Rejected (decodeBlob mk (bytes16 (len16 d) ++ d).dropLast) := by
  rw [decodeBlob_rejected_iff]
  obtain rfl | ⟨d, b, rfl⟩ := d.eq_nil_or_concat'
  · exact .inl (by simp [bytes16])
  · right
    rw [← List.append_assoc, List.dropLast_concat]
    simp [bytes16, len16_toNat _ h]
    omega

/-- Settles O10: the word is the code 0x01 and a blob. -/
theorem crcCommand : Obligations.CrcCommand := by
  refine fun d => ⟨exec_crc16 d, fun h => ⟨?decodes, ?oneByteShort⟩⟩
  case decodes => exact decodeBlob_bytes .crc16 h
  case oneByteShort => exact decodeBlob_dropLast_rejected .crc16 h

end Sys2Proof.Machine
end

section
/-! PROOFS. The Frame Builder: which parameters make a frame and which frame they make (O11), and the command (O12). -/

namespace Sys2Proof.Machine

open Sys2Proof.Safety

/-! ### An integer's fields -/

theorem hi8_ofInt (v : Int) : hi8 (BitVec.ofInt 16 v) = BitVec.ofInt 8 (v / 256) := by
  apply BitVec.eq_of_toNat_eq
  simp only [hi8, BitVec.extractLsb'_toNat, BitVec.toNat_ofInt, Nat.shiftRight_eq_div_pow]
  omega

theorem lo8_ofInt (v : Int) : lo8 (BitVec.ofInt 16 v) = BitVec.ofInt 8 (v % 256) := by
  apply BitVec.eq_of_toNat_eq
  simp only [lo8, BitVec.extractLsb'_toNat, BitVec.toNat_ofInt, Nat.shiftRight_zero]
  omega

/-- A field cut from the integer an operand stands for is cut from the operand (spec 30_encoding.md R112). -/
theorem ofInt_i32 (v : Quad) {n : Nat} (h : n ≤ 32) : BitVec.ofInt n (i32 v) = v.setWidth n :=
  BitVec.signExtend_eq_setWidth_of_le v h

/-! ### The frame -/

/-- `build` as one choice, on R170's range written as a proposition. -/
theorem build_eq (slave fc start count : Int) :
    build slave fc start count =
      if 0 ≤ slave ∧ slave ≤ 247 ∧ (fc = 3 ∨ fc = 4) ∧ 0 ≤ start ∧ start ≤ 65535 ∧ 1 ≤ count ∧ count ≤ 65535
      then .ok (requestOctets (BitVec.ofInt 8 slave) (BitVec.ofInt 8 fc) (BitVec.ofInt 16 start)
        (BitVec.ofInt 16 count))
      else .err .invalidParameter := by
  simp only [build, validReq_iff, requestOctets_eq]

@[simp] theorem requestOctets_length (slave fc : Byte) (start count : Half) :
    (requestOctets slave fc start count).length = 8 := rfl

theorem requestOctets_take_six (slave fc : Byte) (start count : Half) :
    (requestOctets slave fc start count).take 6 = [slave, fc, hi8 start, lo8 start, hi8 count, lo8 count] := rfl

/-- The last two bytes of a request frame, low byte first, are the CRC of the six before them (R173). -/
theorem requestOctets_crc (slave fc : Byte) (start count : Half) :
    crc16 ((requestOctets slave fc start count).take 6) =
      le16 ((requestOctets slave fc start count).getD 6 0#8) ((requestOctets slave fc start count).getD 7 0#8) :=
  (le16_crcBytes _).symm

/-- Settles O11. -/
theorem builderFrames : Obligations.BuilderFrames := by
  intro slave fc start count
  rw [build_eq]
  refine ⟨fun inRange => ⟨_, if_pos inRange, requestOctets_length .., ?fields, requestOctets_crc ..⟩,
    fun outOfRange => if_neg outOfRange⟩
  case fields => rw [requestOctets_take_six, hi8_ofInt, lo8_ofInt, hi8_ofInt, lo8_ofInt]

/-! ### The command -/

theorem exec_build_ok {slave fc start count : Quad} {f : List Byte}
    (h : build (i32 slave) (i32 fc) (i32 start) (i32 count) = .ok f) (s : State) :
    exec (.build slave fc start count) s = .next (respond (.ok f) s) := by
  simp only [exec, execBuild, h]

theorem exec_build_err {slave fc start count : Quad} {e : Err}
    (h : build (i32 slave) (i32 fc) (i32 start) (i32 count) = .err e) (s : State) :
    exec (.build slave fc start count) s = .next (respond (.err e) s) := by
  simp only [exec, execBuild, h]

/-- Settles O12: in range or not, the response is what `build` makes of the operands read as integers. -/
theorem buildCommand : Obligations.BuildCommand := by
  intro slave fc start count s
  refine ⟨decodeBuild_operands slave fc start count, ?responds⟩
  have built := build_eq (i32 slave) (i32 fc) (i32 start) (i32 count)
  simp only [ofInt_i32, Nat.reduceLeDiff] at built
  split
  case isTrue inRange => exact exec_build_ok (built.trans (if_pos inRange)) s
  case isFalse outOfRange => exact exec_build_err (built.trans (if_neg outOfRange)) s

end Sys2Proof.Machine
end

section
/-! PROOFS. The Frame Reassembler: completion (O14), the two commands (O15, O16), and a sequence fed byte by byte or as
one chunk (O17). Then the parser on a frame with one surplus 0x00 byte (O21). -/

namespace Sys2Proof.Machine

open Sys2Proof.Safety

/-! ### Completion -/

/-- Settles O14. -/
theorem completionPredicate : Obligations.CompletionPredicate := by
  intro b
  rw [raComplete_iff, byteAt]
  omega

/-- The status byte on the predicate written out (spec 42_reassembler.md R192, R193). -/
theorem feedStatus_eq (b : List Byte) :
    feedStatus b = if 5 ≤ b.length ∧ 3 + (b.getD 2 0#8).toNat + 2 ≤ b.length then 1#8 else 0#8 :=
  if_congr (completionPredicate b) rfl rfl

/-- A longer opening of a sequence is complete if a shorter one is (spec 42_reassembler.md R192, R198). -/
theorem raComplete_take_mono (f : List Byte) {j k : Nat} (hjk : j ≤ k) (h : raComplete (f.take j) = true) :
    raComplete (f.take k) = true := by
  obtain ⟨c, hc⟩ := List.take_prefix_take_left (l := f) hjk
  rw [← hc]
  exact raComplete_append c h

/-! ### The two commands -/

theorem exec_raReset_owned {s : State} (h : hostOwnsBuffer s.ctlState = true) :
    exec .raReset s = .next (respond (.ok []) (clearRx s)) := if_pos h

theorem exec_raFeed_empty {s : State} (h : hostOwnsBuffer s.ctlState = true) :
    exec (.raFeed []) s = .next (respond (.ok [2#8]) s) := if_pos h

theorem exec_raFeed_appends {s : State} {d : List Byte} (h : hostOwnsBuffer s.ctlState = true) (hd : d ≠ [])
    (hc : s.rxBuf.length + d.length ≤ s.par.rxBufCap) :
    exec (.raFeed d) s = .next (respond (.ok [feedStatus (s.rxBuf ++ d)]) (appendRx d s)) := by
  simp [exec, execRaFeed, h, hd, Nat.not_lt.2 hc]

/-- Settles O15, by whether the host owns the buffer. -/
theorem raResetCommand : Obligations.RaResetCommand :=
  ⟨rfl, rfl, fun _ => ⟨fun owned => exec_raReset_owned ((hostOwnsBuffer_iff _).2 owned),
    fun notOwned => exec_raReset_refused ((not_hostOwnsBuffer_iff _).2 notOwned)⟩⟩

/-- Settles O16, one lemma per check of R193. -/
theorem raFeedCommand : Obligations.RaFeedCommand := by
  refine ⟨rfl, rfl, fun d s => ⟨decodeBlob_bytes .raFeed,
    fun notOwned => exec_raFeed_refused d ((not_hostOwnsBuffer_iff _).2 notOwned), fun owned => ?_⟩⟩
  have ho : hostOwnsBuffer s.ctlState = true := (hostOwnsBuffer_iff _).2 owned
  refine ⟨?closed, exec_raFeed_capacity ho, fun hd hc => ?appends⟩
  case closed =>
    rintro rfl
    exact exec_raFeed_empty ho
  case appends =>
    rw [← feedStatus_eq]
    exact exec_raFeed_appends ho hd hc

/-! ### Byte by byte -/

theorem execAll_cons_next {i : Instr} {s t : State} (h : exec i s = .next t) (rest : List Instr) :
    execAll (i :: rest) s = execAll rest t := by
  simp only [execAll, h]

/-- RA_FEED_SPLIT with `k = 1` is one RA_FEED per byte (spec 30_encoding.md R141). -/
theorem raFeedSplit_one (f : List Byte) : raFeedSplit f 1 = f.map fun b => .raFeed [b] := by
  induction f with
  | nil => rfl
  | cons b f ih => exact congrArg (Instr.raFeed [b] :: ·) ih

/-- The answers to a sequence fed byte by byte onto the buffer `b`: after each byte, whether the buffer is complete. -/
def byteAnswers (b f : List Byte) : List HostResponse :=
  (List.range f.length).map fun k => .ok [feedStatus (b ++ f.take (k + 1))]

@[simp] theorem byteAnswers_nil (b : List Byte) : byteAnswers b [] = [] := rfl

/-- The first byte's answer, then those to the others onto a buffer that holds it. -/
theorem byteAnswers_cons (b : List Byte) (x : Byte) (f : List Byte) :
    byteAnswers b (x :: f) = .ok [feedStatus (b ++ [x])] :: byteAnswers (b ++ [x]) f := by
  simp [byteAnswers, List.range_succ_eq_map, Function.comp_def]

/-- Feeding byte by byte onto any buffer, within the capacity (spec 42_reassembler.md R193). -/
theorem execAll_raFeed_bytes {f : List Byte} {s : State} (ho : hostOwnsBuffer s.ctlState = true)
    (hc : s.rxBuf.length + f.length ≤ s.par.rxBufCap) :
    execAll (f.map fun b => .raFeed [b]) s =
      .next { s with rxBuf := s.rxBuf ++ f, resp := s.resp ++ byteAnswers s.rxBuf f } := by
  induction f generalizing s with
  | nil => simp [execAll]
  | cons x f ih =>
    rw [List.length_cons] at hc
    have fed := exec_raFeed_appends (d := [x]) ho (by simp) (by simp; omega)
    refine (execAll_cons_next fed _).trans ((ih (by simpa using ho) (by simp; omega)).trans ?_)
    simp [byteAnswers_cons, appendRx, respond]

/-- Settles O17: both ways onto the empty buffer, and completion is kept by longer openings. -/
theorem chunkSizeInvariance : Obligations.ChunkSizeInvariance := by
  intro f s owned empty hc
  have ho : hostOwnsBuffer s.ctlState = true := (hostOwnsBuffer_iff _).2 owned
  have fits : s.rxBuf.length + f.length ≤ s.par.rxBufCap := by simpa [empty] using hc
  refine ⟨?byBytes, fun hf => ?oneChunk, fun _ _ => raComplete_take_mono f⟩
  case byBytes =>
    rw [raFeedSplit_one, execAll_raFeed_bytes ho fits, empty]
    rfl
  case oneChunk =>
    rw [exec_raFeed_appends ho hf fits, appendRx, empty]
    rfl

/-! ### A frame and its two CRC bytes -/

theorem exists_covered_crc {f : List Byte} (h : 2 ≤ f.length) : ∃ g lo hi, f = g ++ [lo, hi] := by
  obtain ⟨lo, hi, hlast⟩ := List.length_eq_two.1 (show (f.drop (f.length - 2)).length = 2 by simp; omega)
  exact ⟨_, lo, hi, by rw [← hlast, List.take_append_drop]⟩

@[simp] theorem covered_append_crc (g : List Byte) (lo hi : Byte) : covered (g ++ [lo, hi]) = g := by
  simp [covered]

@[simp] theorem receivedCrc_append_crc (g : List Byte) (lo hi : Byte) :
    receivedCrc (g ++ [lo, hi]) = le16 lo hi := by
  simp [receivedCrc, byteAt]

/-- The frames that parse, and their reading (spec 43_parser.md R222 to R227): at least five bytes, the CRC right, a
function code of the two. -/
theorem parse_eq_ok_iff {f : List Byte} {r : Reading} :
    parse f = .ok r ↔ 5 ≤ f.length ∧ receivedCrc f = crc16 (covered f) ∧ (byteAt f 1 = 0x03#8 ∨ byteAt f 1 = 0x04#8) ∧
      r = { slave := byteAt f 0, fc := byteAt f 1, regs := halves (registerData f) } := by
  unfold parse
  split_ifs with short badCrc badCode noPayload
  · simp; omega
  · simp [badCrc]
  · simp; tauto
  · simp; omega
  · have five : 5 ≤ f.length := by omega
    have code : byteAt f 1 = 0x03#8 ∨ byteAt f 1 = 0x04#8 := by tauto
    simp only [five, code, not_not.1 badCrc, true_and, Result.ok.injEq]
    exact eq_comm

/-! ### A surplus byte -/

/-- An odd last byte makes no value (spec 43_parser.md R227). -/
theorem halves_append_byte : ∀ {d : List Byte}, d.length % 2 = 0 → ∀ b : Byte, halves (d ++ [b]) = halves d
  | [], _, _ => rfl
  | [_], h, _ => by simp at h
  | _ :: _ :: d, h, b => congrArg (_ :: ·) (halves_append_byte (d := d) (by simpa [Nat.add_assoc] using h) b)

theorem le16_zero (lo : Byte) : le16 lo 0x00#8 = lo.setWidth 16 := by simp [le16]

/-- A sequence with the low byte of its own checksum: the high byte is what the register is left with. So that byte and
a 0x00 after it are the new sequence's checksum, low byte first. -/
theorem crc16_append_lo8 (g : List Byte) : crc16 (g ++ [lo8 (crc16 g)]) = le16 (hi8 (crc16 g)) 0x00#8 := by
  rw [crc16_snoc, crcStep_lo8, le16_zero]

theorem append_crc_append_byte (g : List Byte) (lo hi b : Byte) : g ++ [lo, hi] ++ [b] = (g ++ [lo]) ++ [hi, b] := by
  simp

theorem receivedCrc_append_zero {f : List Byte} (h : 2 ≤ f.length) (crcOk : receivedCrc f = crc16 (covered f)) :
    receivedCrc (f ++ [0x00#8]) = crc16 (covered (f ++ [0x00#8])) := by
  obtain ⟨g, lo, hi, rfl⟩ := exists_covered_crc h
  simp only [covered_append_crc, receivedCrc_append_crc, le16_eq_be16, be16_eq_iff] at crcOk
  obtain ⟨rfl, rfl⟩ := crcOk
  rw [append_crc_append_byte, receivedCrc_append_crc, covered_append_crc, crc16_append_lo8]

theorem registerData_length (f : List Byte) : (registerData f).length = f.length - 5 := by
  simp [registerData, covered]; omega

/-- With one byte more, the first of the two CRC bytes stands among the data. -/
theorem registerData_append_byte {f : List Byte} (h : 5 ≤ f.length) (b : Byte) :
    ∃ lo, registerData (f ++ [b]) = registerData f ++ [lo] := by
  obtain ⟨g, lo, hi, rfl⟩ := exists_covered_crc (f := f) (by omega)
  refine ⟨lo, ?_⟩
  rw [append_crc_append_byte, registerData, registerData, covered_append_crc, covered_append_crc]
  exact List.drop_append_of_le_length (by simpa using h)

/-- Settles O21: the CRC still checks, one byte later, and the CRC byte that becomes data is an odd one, dropped. -/
theorem surplusZeroByte : Obligations.SurplusZeroByte := by
  intro f r parses odd
  obtain ⟨five, crcOk, code, rfl⟩ := parse_eq_ok_iff.1 parses
  have kept : ∀ i < 5, byteAt (f ++ [0x00#8]) i = byteAt f i := fun i hi => byteAt_append_left _ _ i (by omega)
  have even : (registerData f).length % 2 = 0 := by
    rw [registerData_length]
    omega
  obtain ⟨lo, data⟩ := registerData_append_byte five 0x00#8
  refine parse_eq_ok_iff.2 ⟨by simp; omega, receivedCrc_append_zero (by omega) crcOk, ?code, ?reading⟩
  case code => rwa [kept 1 (by decide)]
  case reading => rw [kept 0 (by decide), kept 1 (by decide), data, halves_append_byte even]

end Sys2Proof.Machine
end

section
/-! PROOFS. The Frame Parser: its steps on a frame and its two CRC bytes (O18), a flipped bit in those two bytes (O20),
and the command (O19). -/

namespace Sys2Proof.Machine

/-! ### The steps -/

theorem parse_short {f : List Byte} (short : f.length < 4) : parse f = .err .frameTooShort := if_pos short

/-- The four steps after the length check, on the covered bytes and the two CRC bytes (spec 43_parser.md R223 to
R227). -/
theorem parse_append_crc {g : List Byte} (long : 2 ≤ g.length) (lo hi : Byte) :
    parse (g ++ [lo, hi]) =
      if le16 lo hi ≠ crc16 g then .err (.crcMismatch (le16 lo hi) (crc16 g))
      else if byteAt g 1 ≠ 0x03#8 ∧ byteAt g 1 ≠ 0x04#8 then .err .unsupportedFunctionCode
      else if g.length = 2 then .err .emptyPayload
      else .ok { slave := byteAt g 0, fc := byteAt g 1, regs := halves (g.drop 3) } := by
  have notShort : ¬ (g ++ [lo, hi]).length < 4 := by simpa using long
  have noPayload : (g ++ [lo, hi]).length - 4 = 0 ↔ g.length = 2 := by simp; omega
  rw [parse, if_neg notShort, receivedCrc_append_crc, registerData, covered_append_crc,
    byteAt_append_left g _ 0 (by omega), byteAt_append_left g _ 1 (by omega), if_congr noPayload rfl rfl]

section
variable {g : List Byte} {lo hi : Byte} (long : 2 ≤ g.length)
include long

theorem parse_badCrc (bad : le16 lo hi ≠ crc16 g) :
    parse (g ++ [lo, hi]) = .err (.crcMismatch (le16 lo hi) (crc16 g)) := by
  rw [parse_append_crc long, if_pos bad]

theorem parse_badCode (crcOk : le16 lo hi = crc16 g) (bad : byteAt g 1 ≠ 0x03#8 ∧ byteAt g 1 ≠ 0x04#8) :
    parse (g ++ [lo, hi]) = .err .unsupportedFunctionCode := by
  rw [parse_append_crc long, if_neg (not_not.2 crcOk), if_pos bad]

variable (crcOk : le16 lo hi = crc16 g) (code : byteAt g 1 = 0x03#8 ∨ byteAt g 1 = 0x04#8)
include crcOk code

theorem parse_noPayload (empty : g.length = 2) : parse (g ++ [lo, hi]) = .err .emptyPayload := by
  rw [parse_append_crc long, if_neg (not_not.2 crcOk), if_neg (by tauto), if_pos empty]

theorem parse_reading (filled : g.length ≠ 2) :
    parse (g ++ [lo, hi]) = .ok { slave := byteAt g 0, fc := byteAt g 1, regs := halves (g.drop 3) } := by
  rw [parse_append_crc long, if_neg (not_not.2 crcOk), if_neg (by tauto), if_neg filled]

end

/-- Settles O18, one lemma per step: the covered bytes are slave, function code and payload. -/
theorem parserSteps : Obligations.ParserSteps := by
  refine ⟨fun _ => parse_short, fun slave fc payload lo hi => ?_⟩
  have long : 2 ≤ (slave :: fc :: payload).length := by simp
  refine ⟨parse_badCrc long, parse_badCode long, fun crcOk code empty => ?empty,
    fun crcOk code bc data filled => ⟨halves data, ?reading, halves_length data, fun k hk => ?value⟩⟩
  case empty => exact parse_noPayload long crcOk code (by simp [empty])
  case reading =>
    subst filled
    exact parse_reading long crcOk code (by simp)
  case value => exact halves_get data k (by omega)

/-! ### A flipped bit -/

theorem xor_bit_ne_self (b : Byte) {bit : Nat} (h : bit < 8) : b ^^^ (1#8 <<< bit) ≠ b := by
  intro same
  have flipped : (b ^^^ (1#8 <<< bit)).getLsbD bit = !b.getLsbD bit := by simp [h]
  rw [same] at flipped
  exact Bool.not_ne_self _ flipped.symm

/-- A frame keeps its covered bytes when a CRC byte is replaced, and carries another checksum if the byte is another. -/
theorem set_crcByte {f : List Byte} {at_ : Nat} {b : Byte} (long : 2 ≤ f.length)
    (crcByte : at_ = f.length - 2 ∨ at_ = f.length - 1) (other : b ≠ f.getD at_ 0#8) :
    ∃ lo hi, f.set at_ b = covered f ++ [lo, hi] ∧ le16 lo hi ≠ receivedCrc f := by
  obtain ⟨g, lo, hi, rfl⟩ := exists_covered_crc long
  simp only [covered_append_crc, receivedCrc_append_crc, le16_eq_be16, ne_eq, be16_eq_iff, hi8_be16, lo8_be16]
  rcases crcByte with rfl | rfl
  case inl => exact ⟨b, hi, by simp, by simpa using other⟩
  case inr => exact ⟨lo, b, by simp, by simpa using other⟩

/-- Settles O20: the covered bytes stay, the received checksum does not. -/
theorem flippedCrcBit : Obligations.FlippedCrcBit := by
  intro f at_ bit four crcOk crcByte hbit
  obtain ⟨lo, hi, flipped, differs⟩ := set_crcByte (by omega) crcByte (xor_bit_ne_self (f.getD at_ 0#8) hbit)
  rw [crcOk] at differs
  refine ⟨le16 lo hi, differs, ?_⟩
  rw [flipped]
  exact parse_badCrc (by simp [covered]; omega) differs

/-! ### The command -/

theorem exec_parse_ok {f : List Byte} {r : Reading} (h : parse f = .ok r) (s : State) :
    exec (.parse f) s = .next (respond (.ok (readingBytes r)) s) := by
  simp only [exec, execParse, h]

theorem exec_parse_err {f : List Byte} {e : Err} (h : parse f = .err e) (s : State) :
    exec (.parse f) s = .next (respond (.err e) s) := by
  simp only [exec, execParse, h]

theorem regBytes_eq_flatMap (rs : List Half) : regBytes rs = rs.flatMap bytes16 := by
  induction rs with
  | nil => rfl
  | cons r rs ih => rw [regBytes, ih, List.flatMap_cons]

/-- Settles O19. -/
theorem parseCommand : Obligations.ParseCommand := by
  refine fun f s => ⟨decodeBlob_bytes .parse, fun r parses => ?reading, fun _ fails => exec_parse_err fails s,
    fun _ _ => rfl, fun e noCrc => ?noInfo⟩
  case reading =>
    rw [exec_parse_ok parses, readingBytes, regBytes_eq_flatMap]
    rfl
  case noInfo => rw [responseBytes, infoBytes_empty noCrc]; rfl

end Sys2Proof.Machine
end

section
/-! PROOFS. The controller's host commands: CTL_START (O23), CTL_CANCEL (O24) and CTL_STATUS (O25). -/

namespace Sys2Proof.Machine

open Sys2Proof.Safety

/-! ### CTL_START -/

/-- The configuration that CTL_START stores of its operands (spec 44_controller.md R256, 30_encoding.md R112). -/
def startCfg (slave fc start count maxAttempts timeout retryDelay pollInterval : Quad) (endpoint : List Byte) : Cfg :=
  { slave := slave.setWidth 8, func := fc.setWidth 8, start := start.setWidth 16, count := count.setWidth 16,
    maxAttempts, timeout, retryDelay, pollInterval, endpoint }

theorem exec_ctlStart_valid {a b c d m : Quad} (u r p : Quad) (ep : List Byte) {s : State} (hs : s.ctlState = .idle)
    (hv : validCfg (i32 a) (i32 b) (i32 c) (i32 d) (i32 m) = true) :
    exec (.ctlStart a b c d m u r p ep) s =
      .next (beginCycle (startCfg a b c d m u r p ep)
        (respond (.ok []) { s with cfg := some (startCfg a b c d m u r p ep) })) := by
  simp [exec, execCtlStart, hs, hv, ofInt_i32, startCfg]

theorem exec_ctlStart_invalid {a b c d m : Quad} (u r p : Quad) (ep : List Byte) {s : State} (hs : s.ctlState = .idle)
    (hv : validCfg (i32 a) (i32 b) (i32 c) (i32 d) (i32 m) = false) :
    exec (.ctlStart a b c d m u r p ep) s =
      .next (stoppedState .misconfigured 1#8 (respond (.err .invalidParameter) s)) := by
  simp [exec, execCtlStart, hs, hv, raiseError_construction _ (rfl : errClass .invalidParameter = _),
    stop_eq_stoppedState, stopKind]

theorem beginAttempt_eq_freshAttempt (c : Cfg) (s : State) :
    beginAttempt c s = freshAttempt c (s.attempt + 1#32) s := rfl

theorem beginCycle_eq_freshAttempt (c : Cfg) (s : State) :
    beginCycle c s = freshAttempt c 1#32 { s with lastError := none } := rfl

/-- Settles O23: the word is that of the instruction (O1), and in IDLE the operands' range decides. -/
theorem ctlStartCommand : Obligations.CtlStartCommand := by
  refine ⟨rfl, fun a b c d m u r p ep s =>
    ⟨fun hep => decodeEncodeAgree (.ctlStart a b c d m u r p ep) (decide_eq_true hep),
      exec_ctlStart_refused a b c d m u r p ep, fun hs => ?idle⟩⟩
  case idle =>
    have range := validCfg_iff (i32 a) (i32 b) (i32 c) (i32 d) (i32 m)
    split
    case isTrue inRange =>
      rw [exec_ctlStart_valid u r p ep hs (range.2 inRange), beginCycle_eq_freshAttempt]
      rfl
    case isFalse outOfRange =>
      exact exec_ctlStart_invalid u r p ep hs (Bool.eq_false_iff.2 fun hv => outOfRange (range.1 hv))

/-! ### CTL_CANCEL -/

theorem cancelCheckpoint_iff (c : CtlState) :
    cancelCheckpoint c = true ↔ c = .idle ∨ c = .retryWait ∨ c = .pollSleep := by
  cases c <;> simp [cancelCheckpoint]

theorem exec_ctlCancel_checkpoint {s : State} (h : cancelCheckpoint s.ctlState = true) :
    exec .ctlCancel s = .next (stop .cancelled (respond (.ok []) { s with cancelPending := true })) := if_pos h

theorem exec_ctlCancel_latches {s : State} (h : ¬ cancelCheckpoint s.ctlState = true) :
    exec .ctlCancel s = .next (respond (.ok []) { s with cancelPending := true }) := if_neg h

/-- Settles O24, by whether the state is a checkpoint. -/
theorem ctlCancelCommand : Obligations.CtlCancelCommand := by
  refine ⟨rfl, fun s => ?_⟩
  rw [← cancelCheckpoint_iff]
  refine ⟨fun checkpoint => ?_, exec_ctlCancel_latches⟩
  rw [exec_ctlCancel_checkpoint checkpoint, stop_eq_stoppedState]
  rfl

/-! ### CTL_STATUS -/

/-- The flag byte as a sum: each flag has a bit of its own (spec 44_controller.md R289). -/
theorem statusFlags_eq (s : State) :
    statusFlags s = BitVec.ofNat 8 (s.connOpen.toNat + 2 * s.deadlineExpired.toNat + 4 * s.cancelPending.toNat +
      8 * s.cfg.isSome.toNat) := by
  have flags : ∀ o d c f : Bool,
      (BitVec.ofBool o).zeroExtend 8 ||| ((BitVec.ofBool d).zeroExtend 8 <<< 1) |||
        ((BitVec.ofBool c).zeroExtend 8 <<< 2) ||| ((BitVec.ofBool f).zeroExtend 8 <<< 3) =
      BitVec.ofNat 8 (o.toNat + 2 * d.toNat + 4 * c.toNat + 8 * f.toNat) := by decide
  exact flags _ _ _ _

/-- Settles O25. -/
theorem ctlStatusCommand : Obligations.CtlStatusCommand := by
  refine ⟨rfl, fun s => ?_⟩
  rw [← statusFlags_eq, exec, execCtlStatus, bytes32_eq]
  rfl

end Sys2Proof.Machine
end

section
/-! PROOFS. The events: what each does where the acceptance table R291 lists it (O26 to O32), and what every event does
elsewhere: it stops a resting state (O33), is ignored in STOPPED (O34) and waits in a transient state (O35). -/

namespace Sys2Proof.Machine

open Sys2Proof.Safety

/-! ### The acceptance table by rows -/

theorem transient_of_accepts {s : State} {i : Instr} (h : accepts s i = true) : transient s.ctlState = false := by
  have waiting := accepts_waiting h
  simp only [List.mem_cons, List.not_mem_nil, or_false] at waiting
  rcases waiting with hs | hs | hs | hs | hs <;> rw [hs] <;> rfl

theorem takeEvent_effect {i : Instr} {s : State} {e : Answer} (h : accepts s i = true) : takeEvent i s e = e :=
  takeEvent_accepted (transient_of_accepts h) h

theorem accepts_resting {s : State} {i : Instr} (hs : s.ctlState = .idle ∨ s.ctlState = .stopped) :
    accepts s i = false := by
  refine Bool.eq_false_iff.2 fun h => ?_
  have waiting := accepts_waiting h
  rcases hs with hs | hs <;> simp [hs] at waiting

theorem accepts_connecting {s : State} {i : Instr} (hs : s.ctlState = .connecting) (h : accepts s i = true) :
    i = .evConnectOk ∨ i = .evConnectRefused ∨ i = .evConnectError := by
  cases i <;> simp [accepts, hs] at h ⊢

theorem accepts_sending {s : State} {i : Instr} (hs : s.ctlState = .sending) (h : accepts s i = true) :
    i = .evSendOk ∨ i = .evSendError ∨ (i = .evDeadline ∧ s.deadlineExpired = false) := by
  cases i <;> simp_all [accepts]

theorem accepts_receiving {s : State} {i : Instr} (hs : s.ctlState = .receiving) (h : accepts s i = true) :
    (∃ d, d.length ≤ s.par.rxMax ∧ i = .evRxData d) ∨ i = .evRxError ∨ i = .evRxTimeout ∨
      (i = .evDeadline ∧ s.deadlineExpired = false) := by
  cases i <;> simp_all [accepts]

theorem accepts_timerWait {s : State} {i : Instr} (hs : s.ctlState = .retryWait ∨ s.ctlState = .pollSleep)
    (h : accepts s i = true) : i = .evTimerDone := by
  rcases hs with hs | hs <;> cases i <;> simp [accepts, hs] at h ⊢

/-! ### What all events share -/

/-- Every event is taken by the one rule `takeEvent` (spec 44_controller.md R250, R291). -/
theorem exec_event_takes {i : Instr} (hi : i.port = .event) (s : State) : ∃ e, exec i s = takeEvent i s e := by
  cases i <;> cases hi <;> exact ⟨_, rfl⟩

theorem exec_event_waits {i : Instr} {s : State} (hi : i.port = .event) (ht : transient s.ctlState = true) :
    exec i s = .next (wait i s) := by
  obtain ⟨e, he⟩ := exec_event_takes hi s
  rw [he, takeEvent_waits ht]

theorem exec_event_unexpected {i : Instr} {s : State} (hi : i.port = .event) (ht : transient s.ctlState = false)
    (ha : accepts s i = false) : exec i s = .next (unexpected s) := by
  obtain ⟨e, he⟩ := exec_event_takes hi s
  rw [he, takeEvent_unexpected ht ha]

/-- An event that a resting state other than STOPPED does not take (spec 44_controller.md R290, R291). -/
theorem exec_event_stops {i : Instr} {s : State} (hi : i.port = .event) (ht : transient s.ctlState = false)
    (hs : s.ctlState ≠ .stopped) (ha : accepts s i = false) :
    exec i s = .next (stoppedState .unexpectedEvent 0#8 s) := by
  rw [exec_event_unexpected hi ht ha, unexpected_running hs, stop_eq_stoppedState]
  rfl

/-- Settles O33: row by row, an event the row does not list is not accepted, and so stops the block. -/
theorem unexpectedEventsStop : Obligations.UnexpectedEventsStop := by
  intro i s hi unlisted
  obtain ⟨resting, running⟩ : transient s.ctlState = false ∧ s.ctlState ≠ .stopped := by
    obtain hs | ⟨hs, -⟩ | ⟨hs, -⟩ | ⟨hs, -⟩ | ⟨hs | hs, -⟩ := unlisted <;> simp [hs, transient]
  refine exec_event_stops hi resting running (Bool.eq_false_iff.2 fun ha => ?_)
  obtain hs | ⟨hs, ok, refused, error⟩ | ⟨hs, ok, error, deadline⟩ | ⟨hs, data, error, timeout, deadline⟩ |
    ⟨hs, timer⟩ := unlisted
  · rw [accepts_resting (.inl hs)] at ha
    cases ha
  · obtain h | h | h := accepts_connecting hs ha
    · exact ok h
    · exact refused h
    · exact error h
  · obtain h | h | h := accepts_sending hs ha
    · exact ok h
    · exact error h
    · exact deadline h
  · obtain ⟨d, hd, h⟩ | h | h | h := accepts_receiving hs ha
    · exact data d hd h
    · exact error h
    · exact timeout h
    · exact deadline h
  · exact timer (accepts_timerWait hs ha)

/-- Settles O34: STOPPED accepts no event, and there an unexpected one changes nothing. -/
theorem stoppedIgnoresEvents : Obligations.StoppedIgnoresEvents := by
  intro i s hi hs
  rw [exec_event_unexpected hi (by rw [hs]; rfl) (accepts_resting (.inr hs)), unexpected_stopped hs]

theorem step_event_transient {s : State} {w : List Byte} {rest : List Arrival} (hp : s.pending = .event w :: rest)
    (ht : transient s.ctlState = true) : step s = internalStep s := by
  simp only [step, takeNext, hp, takeFrom, ht, if_true]
  rw [← hp]

/-- Settles O35, by what is offered next. -/
theorem eventsWaitInTransientStates : Obligations.EventsWaitInTransientStates := by
  refine fun s ht => ⟨step_pending_nil, fun w rest hp => ?event, fun w rest i hp hd => step_host_decoded hp hd,
    fun i hi => exec_event_waits hi ht⟩
  case event =>
    have internal := step_event_transient hp ht
    exact ⟨internal, fun t h => (internalStep_silent (internal.symm.trans h)).pending.trans hp⟩

/-! ### CONNECTING -/

theorem exec_evConnectOk {s : State} {c : Cfg} (hs : s.ctlState = .connecting) (hc : s.cfg = some c)
    (hl : cfgLegal c = true) :
    exec .evConnectOk s = .next (openAndSend c (requestOctets c.slave c.func c.start c.count) s) :=
  exec_evConnectOk_built hs hc (buildCfg_legal hl)

/-- Settles O26. -/
theorem connectOkEvent : Obligations.ConnectOkEvent := by
  refine ⟨rfl, fun s c hs hc hl => ?_⟩
  rw [exec_evConnectOk hs hc hl, openAndSend_eq]

theorem exec_evConnectRefused {s : State} (hs : s.ctlState = .connecting) :
    exec .evConnectRefused s = .next { s with lastError := some .connectionRefused, ctlState := .fatalFailure } :=
  takeEvent_effect (decide_eq_true hs)

theorem exec_evConnectError {s : State} (hs : s.ctlState = .connecting) :
    exec .evConnectError s = .next { s with lastError := some .transportError, ctlState := .retryableFailure } :=
  takeEvent_effect (decide_eq_true hs)

/-- Settles O27. -/
theorem connectFailureEvents : Obligations.ConnectFailureEvents :=
  ⟨rfl, rfl, fun _ hs => ⟨exec_evConnectRefused hs, exec_evConnectError hs⟩⟩

/-! ### SENDING -/

theorem exec_evSendOk_expired {s : State} (hs : s.ctlState = .sending) (hd : s.deadlineExpired = true) :
    exec .evSendOk s = .next { s with lastError := some .receiveTimeout, ctlState := .retryableFailure } :=
  (takeEvent_effect (i := .evSendOk) (decide_eq_true hs)).trans (if_pos hd)

theorem exec_evSendOk_inTime {s : State} (hs : s.ctlState = .sending) (hd : ¬ s.deadlineExpired = true) :
    exec .evSendOk s =
      .next { s with out := s.out ++ [.receive (BitVec.ofNat 16 s.par.rxMax)], ctlState := .receiving } :=
  (takeEvent_effect (i := .evSendOk) (decide_eq_true hs)).trans (if_neg hd)

theorem exec_evSendError {s : State} (hs : s.ctlState = .sending) :
    exec .evSendError s = .next { s with lastError := some .transportError, ctlState := .retryableFailure } :=
  takeEvent_effect (decide_eq_true hs)

/-- Settles O28, by whether the budget has run out. -/
theorem sendEvents : Obligations.SendEvents := by
  refine ⟨rfl, rfl, fun s hs => ⟨?_, exec_evSendError hs⟩⟩
  split
  case isTrue expired => exact exec_evSendOk_expired hs expired
  case isFalse inTime => exact exec_evSendOk_inTime hs inTime

/-! ### RECEIVING -/

theorem exec_evRxData_tooLong {s : State} {d : List Byte} (hs : s.ctlState = .receiving)
    (hd : s.par.rxMax < d.length) : exec (.evRxData d) s = .next (stoppedState .unexpectedEvent 0#8 s) :=
  exec_event_stops rfl (by rw [hs]; rfl) (by simp [hs]) (by simp [accepts, hd])

/-- A chunk that is taken: a close, a complete buffer, an expired budget, or the next read, in that order (spec
44_controller.md R269, 60_exceptions.md R326). -/
theorem exec_evRxData_taken {s : State} {d : List Byte} (hs : s.ctlState = .receiving)
    (hd : d.length ≤ s.par.rxMax) : exec (.evRxData d) s = .next
      (if d = [] then raiseError .transportError s
       else if raComplete (s.rxBuf ++ d) then goto .parsing (appendRx d s)
       else if s.deadlineExpired then raiseError .receiveTimeout (appendRx d s)
       else askReceive (appendRx d s)) := by
  have taken : exec (.evRxData d) s = _ := takeEvent_effect (by simp [accepts, hs, hd])
  rw [taken]
  simp only [apply_ite Host.Outcome.next]
  exact if_congr List.length_eq_zero_iff rfl rfl

/-- Settles O29. -/
theorem rxDataEvent : Obligations.RxDataEvent := by
  refine fun d s hs => ⟨decodeBlob_bytes .evRxData, ?_⟩
  split
  case isTrue tooLong => exact exec_evRxData_tooLong hs tooLong
  case isFalse short => exact exec_evRxData_taken hs (not_lt.1 short)

theorem exec_evRxError {s : State} (hs : s.ctlState = .receiving) :
    exec .evRxError s = .next { s with lastError := some .transportError, ctlState := .retryableFailure } :=
  takeEvent_effect (decide_eq_true hs)

theorem exec_evRxTimeout {s : State} (hs : s.ctlState = .receiving) :
    exec .evRxTimeout s = .next { s with lastError := some .receiveTimeout, ctlState := .retryableFailure } :=
  takeEvent_effect (decide_eq_true hs)

/-- Settles O30. -/
theorem rxFailureEvents : Obligations.RxFailureEvents :=
  ⟨rfl, rfl, fun _ hs => ⟨exec_evRxError hs, exec_evRxTimeout hs⟩⟩

/-- Settles O31: SENDING and RECEIVING accept the deadline while it has not expired. -/
theorem deadlineEvent : Obligations.DeadlineEvent :=
  ⟨rfl, fun _ hs hd => takeEvent_effect (by simp [accepts, hs, hd])⟩

/-! ### The two waits -/

theorem exec_evTimerDone_retry {s : State} {c : Cfg} (hc : s.cfg = some c) (hs : s.ctlState = .retryWait) :
    exec .evTimerDone s = .next (freshAttempt c (s.attempt + 1#32) s) := by
  have taken : exec .evTimerDone s = _ := takeEvent_effect (by simp [accepts, hs])
  rw [taken, withCfg_some hc, if_pos hs, resumeAttempt, beginAttempt_eq_freshAttempt]

theorem exec_evTimerDone_poll {s : State} {c : Cfg} (hc : s.cfg = some c) (hs : s.ctlState = .pollSleep) :
    exec .evTimerDone s = .next (freshAttempt c 1#32 { s with lastError := none }) := by
  have taken : exec .evTimerDone s = _ := takeEvent_effect (by simp [accepts, hs])
  rw [taken, withCfg_some hc, if_neg (by simp [hs]), beginCycle_eq_freshAttempt]

/-- Settles O32. -/
theorem timerDoneEvent : Obligations.TimerDoneEvent :=
  ⟨rfl, fun _ _ hc => ⟨exec_evTimerDone_retry hc, exec_evTimerDone_poll hc⟩⟩

end Sys2Proof.Machine
end

section
/-! PROOFS. The internal steps, state by state (O36 to O40), and how many of them reach a resting state (O42). -/

namespace Sys2Proof.Machine

open Sys2Proof.Safety

/-! ### PARSING and INTERPRETING -/

theorem internalStep_parsing {s : State} (hs : s.ctlState = .parsing) :
    internalStep s = .next (parseFrame (frameToParse s) s) := by
  simp only [internalStep, hs, parsingStep_eq hs]

/-- Settles O36, by the extraction mode. -/
theorem parsingInternalStep : Obligations.ParsingInternalStep := by
  intro s hs
  rw [internalStep_parsing hs, frameToParse]
  cases s.par.extractMode <;> rfl

theorem internalStep_interpreting_reading {s : State} {r : Reading} (hs : s.ctlState = .interpreting)
    (hp : s.pres = some (.ok r)) : internalStep s = .next { s with ctlState := .success } := by
  simp only [internalStep, hs, interpretStep, hp, goto]

theorem internalStep_interpreting_error {s : State} {e : Err} (hs : s.ctlState = .interpreting)
    (hp : s.pres = some (.err e)) : internalStep s = .next (raiseError e s) := by
  simp only [internalStep, hs, interpretStep, hp]

/-- Settles O37: what the parser raises is retryable. -/
theorem interpretingInternalStep : Obligations.InterpretingInternalStep := by
  refine fun s hs => ⟨fun r => internalStep_interpreting_reading hs, fun f e hp hf => ?_⟩
  rw [internalStep_interpreting_error hs (hf ▸ hp), raiseError_retryable s (parse_err_retryable hf)]

/-! ### The end of an attempt -/

theorem endAttempt_eq_tornDown (s : State) : endAttempt s = tornDown s := by
  cases h : s.connOpen <;> simp [endAttempt, closeConnection, clearAttempt, tornDown, teardownWords, h]

/-- After a teardown there is no connection to close, so a stop only says so (spec 44_controller.md R261, R290). -/
theorem stop_emit_tornDown (r : StopReason) (words : List OutWord) (s : State) :
    stop r { tornDown s with out := (tornDown s).out ++ words } = { tornDown s with
      out := (tornDown s).out ++ words ++ [.stopped r (stopKind r)], ctlState := .stopped, stopReason := r } := by
  rw [stop_eq_stoppedState]
  simp [stoppedState, tornDown, teardownWords]

/-- The poll sleep after a report, or the stop it is a checkpoint for (spec 44_controller.md R283). -/
theorem reportAndSleep_eq (c : Cfg) (w : OutWord) (s : State) :
    enterPollSleep c (emit w (endAttempt s)) =
      if s.cancelPending then { tornDown s with
        out := (tornDown s).out ++ [w, .stopped .cancelled 0#8], ctlState := .stopped, stopReason := .cancelled }
      else { tornDown s with
        out := (tornDown s).out ++ [w, .timer c.pollInterval], ctlState := .pollSleep } := by
  rw [endAttempt_eq_tornDown]
  refine if_congr Iff.rfl ?_ ?_
  · rw [emit, stop_emit_tornDown, List.append_assoc]
    rfl
  · simp [goto, emit]

/-- The retry delay, or the stop it is a checkpoint for (spec 44_controller.md R282). -/
theorem tearDownAndRetry_eq (c : Cfg) (s : State) :
    enterRetryWait c (endAttempt s) =
      if s.cancelPending then { tornDown s with
        out := (tornDown s).out ++ [.stopped .cancelled 0#8], ctlState := .stopped, stopReason := .cancelled }
      else { tornDown s with out := (tornDown s).out ++ [.timer c.retryDelay], ctlState := .retryWait } := by
  rw [endAttempt_eq_tornDown]
  refine if_congr Iff.rfl ?_ rfl
  have stopped := stop_emit_tornDown .cancelled [] s
  rwa [List.append_nil] at stopped

/-! ### SUCCESS and the two failures -/

theorem internalStep_success {s : State} {r : Reading} {c : Cfg} (hs : s.ctlState = .success)
    (hp : s.pres = some (.ok r)) (hc : s.cfg = some c) :
    internalStep s = .next (enterPollSleep c (emit (.reportSuccess r) (endAttempt s))) := by
  simp only [internalStep, hs, successStep, hp, withCfg_some hc]

/-- Settles O38. -/
theorem successInternalStep : Obligations.SuccessInternalStep := by
  intro s r c hs hp hc
  rw [internalStep_success hs hp hc, reportAndSleep_eq]
  exact ⟨fun unlatched => by simp [unlatched], fun latched => by simp [latched]⟩

theorem internalStep_retry {s : State} {c : Cfg} (hs : s.ctlState = .retryableFailure) (hc : s.cfg = some c)
    (hr : s.attempt.toNat < c.maxAttempts.toNat) : internalStep s = .next (enterRetryWait c (endAttempt s)) := by
  simp only [internalStep, hs, retryableStep, withCfg_some hc, (attemptsRemain_iff c s).2 hr, if_true]

theorem internalStep_lastAttempt {s : State} {c : Cfg} {e : Err} (hs : s.ctlState = .retryableFailure)
    (hc : s.cfg = some c) (hr : c.maxAttempts.toNat ≤ s.attempt.toNat) (he : s.lastError = some e) :
    internalStep s = .next (enterPollSleep c (emit (.reportFailure e s.attempt) (endAttempt s))) := by
  have noneRemain : ¬ attemptsRemain c s = true := by rw [attemptsRemain_iff]; omega
  simp only [internalStep, hs, retryableStep, withCfg_some hc, if_neg noneRemain, he]

/-- Settles O39, by whether attempts remain. -/
theorem retryableFailureInternalStep : Obligations.RetryableFailureInternalStep := by
  refine fun s c hs hc => ⟨fun remain => ?_, fun last e he => ?_⟩
  · rw [internalStep_retry hs hc remain, tearDownAndRetry_eq]
  · rw [internalStep_lastAttempt hs hc last he, reportAndSleep_eq]

theorem internalStep_fatalFailure {s : State} {c : Cfg} (hs : s.ctlState = .fatalFailure) (hc : s.cfg = some c) :
    internalStep s =
      .next (enterPollSleep c (emit (.reportFailure .connectionRefused s.attempt) (endAttempt s))) := by
  simp only [internalStep, hs, fatalStep, withCfg_some hc]

/-- Settles O40. -/
theorem fatalFailureInternalStep : Obligations.FatalFailureInternalStep := by
  intro s c hs hc
  rw [internalStep_fatalFailure hs hc, reportAndSleep_eq]

/-! ### How many internal steps are left -/

/-- A bound on the internal steps that are left before a resting state (spec 44_controller.md R251). -/
def stepsLeft : CtlState → Nat
  | .parsing => 3
  | .interpreting => 2
  | .success => 1
  | .retryableFailure => 1
  | .fatalFailure => 1
  | _ => 0

theorem stepsLeft_le_three (c : CtlState) : stepsLeft c ≤ 3 := by cases c <;> decide

theorem transient_iff_stepsLeft (c : CtlState) : transient c = true ↔ 0 < stepsLeft c := by cases c <;> decide

theorem stepsLeft_raiseError (e : Err) (s : State) : stepsLeft (raiseError e s).ctlState ≤ 1 := by
  cases h : errClass e with
  | retryable => rw [raiseError_retryable s h]; exact le_rfl
  | fatal => rw [raiseError_fatal s h]; exact le_rfl
  | constructionTime => rw [raiseError_construction s h, stop_ctlState]; exact Nat.zero_le 1

theorem stepsLeft_enterRetryWait (c : Cfg) (s : State) : stepsLeft (enterRetryWait c s).ctlState = 0 := by
  rcases enterRetryWait_cases c s with ⟨-, h⟩ | ⟨-, h⟩ <;> rw [h]
  · rw [stop_ctlState]; rfl
  · rfl

theorem stepsLeft_enterPollSleep (c : Cfg) (s : State) : stepsLeft (enterPollSleep c s).ctlState = 0 := by
  rcases enterPollSleep_cases c s with ⟨-, h⟩ | ⟨-, h⟩ <;> rw [h]
  · rw [stop_ctlState]; rfl
  · rfl

/-- Every internal step of a transient state leaves fewer of them. -/
theorem internalStep_stepsLeft {s t : State} (ht : transient s.ctlState = true) (h : internalStep s = .next t) :
    stepsLeft t.ctlState < stepsLeft s.ctlState := by
  rcases internalStep_next ht h with ⟨hs, rfl⟩ | ⟨hs, h⟩ | ⟨hs, h⟩ | ⟨hs, h⟩ | ⟨hs, h⟩ <;> rw [hs]
  · exact Nat.lt_succ_self 2
  · obtain ⟨r, -, rfl⟩ | ⟨e, -, rfl⟩ := interpretStep_next h
    · exact Nat.lt_succ_self 1
    · exact Nat.lt_succ_of_le (stepsLeft_raiseError e s)
  · obtain ⟨r, c, -, -, rfl⟩ := successStep_next h
    rw [stepsLeft_enterPollSleep]; exact Nat.one_pos
  · obtain ⟨c, -, ⟨-, rfl⟩ | ⟨-, e, -, rfl⟩⟩ := retryableStep_next h
    · rw [stepsLeft_enterRetryWait]; exact Nat.one_pos
    · rw [stepsLeft_enterPollSleep]; exact Nat.one_pos
  · obtain ⟨c, -, rfl⟩ := fatalStep_next h
    rw [stepsLeft_enterPollSleep]; exact Nat.one_pos

theorem settle_resting (k : Nat) {s : State} (h : transient s.ctlState = false) : settle k s = .next s := by
  cases k <;> simp [settle, h]

theorem settle_transient {s t : State} (k : Nat) (ht : transient s.ctlState = true) (h : internalStep s = .next t) :
    settle (k + 1) s = settle k t := by
  simp [settle, ht, h]

/-- A good machine settles within the steps that are left, taking no input. -/
theorem settle_reaches_resting {k : Nat} {s : State} (h : Inv s) (hk : stepsLeft s.ctlState ≤ k) :
    ∃ t, settle k s = .next t ∧ transient t.ctlState = false ∧ t.pending = s.pending := by
  induction k generalizing s with
  | zero =>
    have resting : transient s.ctlState = false :=
      Bool.eq_false_iff.2 fun ht => absurd ((transient_iff_stepsLeft _).1 ht) (by omega)
    exact ⟨s, rfl, resting, rfl⟩
  | succ k ih =>
    cases ht : transient s.ctlState with
    | false => exact ⟨s, settle_resting _ ht, ht, rfl⟩
    | true =>
      obtain ⟨u, hu, good⟩ := internalStep_completes h
      have fewer := internalStep_stepsLeft ht hu
      obtain ⟨t, settles, resting, kept⟩ := ih good (by omega)
      exact ⟨t, (settle_transient k ht hu).trans settles, resting, kept.trans (internalStep_silent hu).pending⟩

/-- Settles O42, by the internal steps that are left. -/
theorem internalStepsSettle : Obligations.InternalStepsSettle := by
  refine fun s h _ => ⟨settle_reaches_resting h (stepsLeft_le_three _), fun hs => ?_⟩
  obtain ⟨t, settles, resting, -⟩ := settle_reaches_resting (k := 1) h (by rw [hs]; exact le_rfl)
  exact ⟨t, settles, resting⟩

end Sys2Proof.Machine
end

section
/-! PROOFS. Where a cycle ends: every step leaves the cycle going, or ends it with a report, a cancellation or both
(`step_cycle`); so a cancelled stop happens only at a checkpoint (O51) and a cycle has one report (O52). -/

namespace Sys2Proof.Machine

open Sys2Proof.Safety

/-! ### How a step leaves the cycle -/

/-- From `s` to `t` the cycle does not end: nothing is reported, the poll sleep is not entered, and the block is not
stopped by a cancellation. -/
structure KeepsCycle (s t : State) : Prop where
  unreported : ∃ words, t.out = s.out ++ words ∧ words.filter isReport = []
  goesOn : t.ctlState = s.ctlState ∨ t.ctlState ∉ [CtlState.pollSleep, .stopped] ∨
    (t.ctlState = .stopped ∧ t.stopReason ≠ .cancelled)

/-- `t` is stopped by a cancellation, after at most `n` reports. -/
structure CancelledAfter (n : Nat) (s t : State) : Prop where
  stopped : t.ctlState = .stopped
  reason : t.stopReason = .cancelled
  reports : ∃ words, t.out = s.out ++ words ∧ (words.filter isReport).length ≤ n

/-- `t` is in the poll sleep, and on the way there the one report stands just before the sleep's timer. -/
structure SleepsAfterReport (s t : State) : Prop where
  asleep : t.ctlState = .pollSleep
  reports : ∃ before report d, t.out = s.out ++ (before ++ [report, .timer d]) ∧ isReport report = true ∧
    before.filter isReport = []

/-- The states whose internal step ends a cycle (spec 44_controller.md R277 to R279). -/
def EndsCycle (c : CtlState) : Prop := c = .success ∨ c = .retryableFailure ∨ c = .fatalFailure

/-- What a step that takes no CTL_CANCEL at a checkpoint does to the cycle. -/
inductive CycleStep (s t : State) : Prop
  | keeps (h : KeepsCycle s t)
  | cancelLatched (ends : EndsCycle s.ctlState) (latched : s.cancelPending = true) (h : CancelledAfter 1 s t)
  | reported (ends : EndsCycle s.ctlState) (h : SleepsAfterReport s t)

/-- Behind refused host words at most, the next word offered is CTL_CANCEL. -/
def CancelOffered (s : State) : Prop :=
  ∃ before rest, s.pending = before ++ .host [0x11#8] :: rest ∧ before.all (refusedArrival s) = true

/-- A step that takes CTL_CANCEL at a checkpoint (spec 44_controller.md R285, R286 item 1). -/
structure CancelTaken (s t : State) : Prop where
  checkpoint : cancelCheckpoint s.ctlState = true
  offered : CancelOffered s
  cancelled : CancelledAfter 0 s t

/-! ### Operations that keep the cycle -/

theorem closingWords_unreported (b : Bool) : (closingWords b).filter isReport = [] := by cases b <;> rfl

theorem keepsCycle_same {s t : State} (hout : t.out = s.out) (hctl : t.ctlState = s.ctlState) : KeepsCycle s t :=
  ⟨⟨[], by simp [hout], rfl⟩, .inl hctl⟩

theorem keepsCycle_goto {s t : State} (words : List OutWord) (hout : t.out = s.out ++ words)
    (hw : words.filter isReport = []) (hctl : t.ctlState ∉ [CtlState.pollSleep, .stopped]) : KeepsCycle s t :=
  ⟨⟨words, hout, hw⟩, .inr (.inl hctl)⟩

/-- What comes before the cycle's own move may write anything but `out` and the controller's state. -/
theorem KeepsCycle.after {s t u : State} (h : KeepsCycle t u) (hout : t.out = s.out)
    (hctl : t.ctlState = s.ctlState) : KeepsCycle s u :=
  ⟨hout ▸ h.unreported, hctl ▸ h.goesOn⟩

theorem KeepsCycle.not_asleep {s t : State} (h : KeepsCycle s t) (hs : s.ctlState ≠ .pollSleep) :
    t.ctlState ≠ .pollSleep := by
  obtain hsame | hmoved | ⟨hstop, -⟩ := h.goesOn
  · rwa [hsame]
  · exact fun asleep => hmoved (by simp [asleep])
  · simp [hstop]

theorem KeepsCycle.not_cancelled {s t : State} (h : KeepsCycle s t) (hs : s.ctlState ≠ .stopped) :
    ¬ (t.ctlState = .stopped ∧ t.stopReason = .cancelled) := by
  rintro ⟨stopped, cancelled⟩
  obtain hsame | hmoved | ⟨-, hreason⟩ := h.goesOn
  · exact hs (hsame.symm.trans stopped)
  · exact hmoved (by simp [stopped])
  · exact hreason cancelled

theorem keepsCycle_stop {r : StopReason} (hr : r ≠ .cancelled) (s : State) : KeepsCycle s (stop r s) :=
  ⟨⟨closingWords s.connOpen ++ [.stopped r (stopKind r)], by simp,
      by rw [List.filter_append, closingWords_unreported]; rfl⟩,
    .inr (.inr ⟨stop_ctlState r s, by rwa [stop_stopReason]⟩)⟩

theorem keepsCycle_unexpected (s : State) : KeepsCycle s (unexpected s) := by
  by_cases h : s.ctlState = .stopped
  · rw [unexpected_stopped h]; exact keepsCycle_same rfl rfl
  · rw [unexpected_running h]; exact keepsCycle_stop (by decide) s

theorem keepsCycle_raiseError (e : Err) (s : State) : KeepsCycle s (raiseError e s) := by
  cases h : errClass e with
  | retryable => rw [raiseError_retryable s h]; exact keepsCycle_goto [] (List.append_nil _).symm rfl (by simp)
  | fatal => rw [raiseError_fatal s h]; exact keepsCycle_goto [] (List.append_nil _).symm rfl (by simp)
  | constructionTime => rw [raiseError_construction s h]; exact keepsCycle_stop (by decide) s

theorem keepsCycle_beginAttempt (c : Cfg) (s : State) : KeepsCycle s (beginAttempt c s) :=
  keepsCycle_goto [.connect c.timeout c.endpoint] rfl rfl (by simp)

theorem keepsCycle_beginCycle (c : Cfg) (s : State) : KeepsCycle s (beginCycle c s) :=
  keepsCycle_goto [.connect c.timeout c.endpoint] rfl rfl (by simp)

/-! ### Operations that end the cycle -/

theorem cancelledAfter_stop {n : Nat} {s u : State} {words : List OutWord} (hout : u.out = s.out ++ words)
    (hw : (words.filter isReport).length ≤ n) : CancelledAfter n s (stop .cancelled u) := by
  refine ⟨stop_ctlState _ _, stop_stopReason _ _,
    words ++ closingWords u.connOpen ++ [.stopped .cancelled (stopKind .cancelled)], by simp [hout], ?_⟩
  rw [List.filter_append, List.filter_append, closingWords_unreported]
  simpa [isReport] using hw

theorem CancelledAfter.after {n : Nat} {s t u : State} (h : CancelledAfter n t u) (hout : t.out = s.out) :
    CancelledAfter n s u :=
  ⟨h.stopped, h.reason, hout ▸ h.reports⟩

theorem CancelledAfter.not_asleep {n : Nat} {s t : State} (h : CancelledAfter n s t) : t.ctlState ≠ .pollSleep := by
  simp [h.stopped]

/-- The cycle depends on the output, the controller's state and the cancel latch only. -/
theorem CycleStep.after {s t u : State} (h : CycleStep t u) (hout : t.out = s.out) (hctl : t.ctlState = s.ctlState)
    (hcancel : t.cancelPending = s.cancelPending) : CycleStep s u := by
  cases h with
  | keeps h => exact .keeps (h.after hout hctl)
  | cancelLatched ends latched h => exact .cancelLatched (hctl ▸ ends) (hcancel ▸ latched) (h.after hout)
  | reported ends h => exact .reported (hctl ▸ ends) ⟨h.asleep, hout ▸ h.reports⟩

/-- SUCCESS or a failure reports and enters the poll sleep, or stops instead (spec 44_controller.md R283, R286). -/
theorem cycleStep_reportAndSleep {s : State} (ends : EndsCycle s.ctlState) (c : Cfg) {w : OutWord}
    (hw : isReport w = true) : CycleStep s (enterPollSleep c (emit w (endAttempt s))) := by
  rcases enterPollSleep_cases c (emit w (endAttempt s)) with ⟨latched, h⟩ | ⟨-, h⟩
  · rw [h]
    refine .cancelLatched ends (by simpa using latched)
      (cancelledAfter_stop (words := closingWords s.connOpen ++ [w]) (by simp) ?_)
    simp [closingWords_unreported, hw]
  · rw [h]
    exact .reported ends ⟨rfl, closingWords s.connOpen, w, c.pollInterval, by simp, hw, closingWords_unreported _⟩

/-- A failure that is retried enters the retry delay, or stops instead (spec 44_controller.md R282, R286). -/
theorem cycleStep_tearDownAndRetry {s : State} (ends : EndsCycle s.ctlState) (c : Cfg) :
    CycleStep s (enterRetryWait c (endAttempt s)) := by
  rcases enterRetryWait_cases c (endAttempt s) with ⟨latched, h⟩ | ⟨-, h⟩
  · rw [h]
    refine .cancelLatched ends (by simpa using latched)
      (cancelledAfter_stop (words := closingWords s.connOpen) (by simp) ?_)
    simp [closingWords_unreported]
  · rw [h]
    refine .keeps (keepsCycle_goto (closingWords s.connOpen ++ [.timer c.retryDelay]) (by simp) ?_ (by simp))
    rw [List.filter_append, closingWords_unreported]
    rfl

/-! ### What a step does to the cycle -/

theorem internalStep_cycle {s t : State} (h : internalStep s = .next t) : CycleStep s t := by
  cases ht : transient s.ctlState
  · rw [internalStep_resting ht] at h
    cases h; exact .keeps (keepsCycle_same rfl rfl)
  · rcases internalStep_next ht h with ⟨-, rfl⟩ | ⟨-, h⟩ | ⟨hs, h⟩ | ⟨hs, h⟩ | ⟨hs, h⟩
    · exact .keeps (keepsCycle_goto [] (List.append_nil _).symm rfl (by simp))
    · obtain ⟨r, -, rfl⟩ | ⟨e, -, rfl⟩ := interpretStep_next h
      · exact .keeps (keepsCycle_goto [] (List.append_nil _).symm rfl (by simp))
      · exact .keeps (keepsCycle_raiseError e s)
    · obtain ⟨r, c, -, -, rfl⟩ := successStep_next h
      exact cycleStep_reportAndSleep (.inl hs) c rfl
    · obtain ⟨c, -, ⟨-, rfl⟩ | ⟨-, e, -, rfl⟩⟩ := retryableStep_next h
      · exact cycleStep_tearDownAndRetry (.inr (.inl hs)) c
      · exact cycleStep_reportAndSleep (.inr (.inl hs)) c rfl
    · obtain ⟨c, -, rfl⟩ := fatalStep_next h
      exact cycleStep_reportAndSleep (.inr (.inr hs)) c rfl

theorem takeEvent_keepsCycle {i : Instr} {s t : State} {e : Answer} (h : takeEvent i s e = .next t)
    (effect : e = .next t → KeepsCycle s t) : KeepsCycle s t := by
  rcases takeEvent_next h with ⟨-, rfl⟩ | ⟨-, -, he⟩ | ⟨-, -, rfl⟩
  · exact keepsCycle_same rfl rfl
  · exact effect he
  · exact keepsCycle_unexpected s

/-- An event whose whole effect is a failure (spec 44_controller.md R264, R266, R270, R271, R273). -/
theorem takeEvent_raiseError_keepsCycle {i : Instr} {s t : State} {e : Err}
    (h : takeEvent i s (.next (raiseError e s)) = .next t) : KeepsCycle s t :=
  takeEvent_keepsCycle h fun he => by cases he; exact keepsCycle_raiseError e s

theorem exec_event_keepsCycle {i : Instr} {s t : State} (hi : i.port = .event) (h : exec i s = .next t) :
    KeepsCycle s t := by
  cases i <;> cases hi
  case evConnectOk =>
    refine takeEvent_keepsCycle h fun he => ?_
    obtain ⟨c, -, he⟩ := withCfg_next he
    split at he <;> cases he
    exact keepsCycle_goto _ (List.append_assoc ..) rfl (by simp)
  case evConnectRefused => exact takeEvent_raiseError_keepsCycle h
  case evConnectError => exact takeEvent_raiseError_keepsCycle h
  case evSendOk =>
    refine takeEvent_keepsCycle h fun he => ?_
    split at he <;> cases he
    · exact keepsCycle_raiseError _ s
    · exact keepsCycle_goto _ (askReceive_out s) rfl (by simp)
  case evSendError => exact takeEvent_raiseError_keepsCycle h
  case evRxData d =>
    refine takeEvent_keepsCycle h fun he => ?_
    dsimp only at he
    split_ifs at he <;> cases he
    · exact keepsCycle_raiseError _ s
    · exact keepsCycle_goto [] (List.append_nil _).symm rfl (by simp)
    · exact (keepsCycle_raiseError _ (appendRx d s)).after rfl rfl
    · exact ⟨⟨_, askReceive_out (appendRx d s), rfl⟩, .inl rfl⟩
  case evRxError => exact takeEvent_raiseError_keepsCycle h
  case evRxTimeout => exact takeEvent_raiseError_keepsCycle h
  case evDeadline => exact takeEvent_keepsCycle h fun he => by cases he; exact keepsCycle_same rfl rfl
  case evTimerDone =>
    refine takeEvent_keepsCycle h fun he => ?_
    obtain ⟨c, -, he⟩ := withCfg_next he
    split at he <;> cases he
    · exact keepsCycle_beginAttempt c s
    · exact keepsCycle_beginCycle c s

theorem eventStep_keepsCycle {w : List Byte} {s t : State} (h : eventStep w s = .next t) : KeepsCycle s t := by
  obtain ⟨i, hd⟩ | ⟨why, hd⟩ := ok_or_rejected (decodeEvent w)
  · exact exec_event_keepsCycle (decodeEvent_ok hd) (eventStep_decoded hd s ▸ h)
  · simp only [eventStep, hd] at h
    cases h; exact keepsCycle_unexpected s

/-- A host command keeps the cycle, unless it is CTL_CANCEL at a checkpoint (spec 44_controller.md R285). -/
theorem exec_host_cycle {i : Instr} {s t : State} (hi : i.port = .host) (h : exec i s = .next t) :
    KeepsCycle s t ∨ (i = .ctlCancel ∧ cancelCheckpoint s.ctlState = true ∧ CancelledAfter 0 s t) := by
  cases i <;> cases hi
  case crc16 => cases h; exact .inl (keepsCycle_same rfl rfl)
  case build =>
    simp only [exec, execBuild] at h
    split at h <;> cases h <;> exact .inl (keepsCycle_same rfl rfl)
  case raReset =>
    simp only [exec, execRaReset] at h
    split at h <;> cases h
    exact .inl (keepsCycle_same rfl rfl)
  case raFeed =>
    simp only [exec, execRaFeed] at h
    split_ifs at h <;> cases h <;> exact .inl (keepsCycle_same rfl rfl)
  case parse =>
    simp only [exec, execParse] at h
    split at h <;> cases h <;> exact .inl (keepsCycle_same rfl rfl)
  case ctlStart =>
    simp only [exec, execCtlStart] at h
    split_ifs at h <;> cases h
    · exact .inl ((keepsCycle_beginCycle _ _).after rfl rfl)
    · exact .inl ((keepsCycle_raiseError _ _).after rfl rfl)
  case ctlCancel =>
    by_cases hc : cancelCheckpoint s.ctlState = true
    · rw [exec_ctlCancel_checkpoint hc] at h
      cases h
      exact .inr ⟨rfl, hc, cancelledAfter_stop (words := []) (List.append_nil _).symm le_rfl⟩
    · rw [exec_ctlCancel_latches hc] at h
      cases h; exact .inl (keepsCycle_same rfl rfl)
  case ctlStatus => cases h; exact .inl (keepsCycle_same rfl rfl)

theorem hostStep_cycle {w : List Byte} {rest : List Arrival} {s t : State} (hp : s.pending = .host w :: rest)
    (h : hostStep w { s with pending := rest } = .next t) : KeepsCycle s t ∨ CancelTaken s t := by
  obtain ⟨i, hd⟩ | hrej := ok_or_rejected (decodeHost w)
  · rw [hostStep_decoded hd] at h
    rcases exec_host_cycle (decodeHost_ok hd).1 h with keeps | ⟨rfl, checkpoint, cancelled⟩
    · exact .inl (keeps.after rfl rfl)
    · obtain rfl : [0x11#8] = w := decodeHost_encode_of_ok hd
      exact .inr ⟨checkpoint, ⟨[], rest, hp, rfl⟩, cancelled.after rfl⟩
  · rw [hostStep_rejected hrej] at h
    cases h

theorem cancelOffered_of_passed {s : State} {w : List Byte} {rest : List Arrival} {a : HostResponse}
    (hp : s.pending = .host w :: rest) (hr : refusedArrival s (.host w) = true)
    (h : CancelOffered (respond a { s with pending := rest })) : CancelOffered s := by
  obtain ⟨before, rest', hrest, hall⟩ := h
  have hsame : refusedArrival (respond a { s with pending := rest }) = refusedArrival s :=
    funext (refusedArrival_congr s (s.resp ++ [a]) rest)
  rw [hsame] at hall
  have hrest : rest = before ++ .host [0x11#8] :: rest' := hrest
  exact ⟨.host w :: before, rest', by rw [hp, hrest]; rfl, by simp [hr, hall]⟩

/-- Everything a step can do to the cycle. -/
theorem step_cycle (s t : State) (h : step s = .next t) : CycleStep s t ∨ CancelTaken s t := by
  revert t
  induction s using step_induction with
  | passes s w rest a hp hr he ih =>
    intro t h
    rcases ih t (he ▸ h) with moved | ⟨checkpoint, offered, cancelled⟩
    · exact .inl (moved.after rfl rfl rfl)
    · exact .inr ⟨checkpoint, cancelOffered_of_passed hp hr offered, cancelled.after rfl⟩
  | takes s hn =>
    intro t h
    rcases step_cases s with ⟨-, he⟩ | ⟨w, rest, hp, -, he⟩ | ⟨w, rest, a, hp, hr, -⟩ | ⟨w, rest, -, -, he⟩ |
      ⟨w, rest, -, -, he⟩ | ⟨rest, -, he⟩
    · exact .inl (internalStep_cycle (he ▸ h))
    · exact (hostStep_cycle hp (he ▸ h)).imp_left .keeps
    · rw [hn w rest hp] at hr; cases hr
    · exact .inl (internalStep_cycle (he ▸ h))
    · rw [he] at h
      exact .inl (.keeps ((eventStep_keepsCycle h).after rfl rfl))
    · rw [he] at h
      exact .inl ((internalStep_cycle h).after rfl rfl rfl)

/-! ### Cancelled stops and reports -/

/-- Settles O51: a step that stops the block with CANCELLED takes a CTL_CANCEL, or finds one latched. -/
theorem cancelOnlyAtCheckpoints : Obligations.CancelOnlyAtCheckpoints := by
  intro s t h running stopped cancelled
  rcases step_cycle s t h with (keeps | ⟨ends, latched, -⟩ | ⟨-, sleeps⟩) | ⟨checkpoint, offered, -⟩
  · exact absurd ⟨stopped, cancelled⟩ (keeps.not_cancelled running)
  · exact .inr ⟨latched, ends⟩
  · cases stopped.symm.trans sleeps.asleep
  · exact .inl ⟨(cancelCheckpoint_iff _).1 checkpoint, offered⟩

/-- Settles O52: only a cycle's end reports, once, and only there is the poll sleep entered. -/
theorem oneReportPerCycle : Obligations.OneReportPerCycle := by
  intro s t h
  rcases step_cycle s t h with (keeps | ⟨ends, -, cancelled⟩ | ⟨ends, sleeps⟩) | ⟨-, -, cancelled⟩
  · obtain ⟨words, hout, hw⟩ := keeps.unreported
    refine ⟨words, hout, fun awake asleep => absurd asleep (keeps.not_asleep awake), ?_, fun one => ?_⟩
    · simp [hw]
    · simp [hw] at one
  · obtain ⟨words, hout, hw⟩ := cancelled.reports
    exact ⟨words, hout, fun _ asleep => absurd asleep cancelled.not_asleep, hw,
      fun _ => ⟨ends, .inr ⟨cancelled.stopped, cancelled.reason⟩⟩⟩
  · obtain ⟨before, report, d, hout, hr, hb⟩ := sleeps.reports
    refine ⟨_, hout, fun _ _ => ⟨before, report, d, rfl, hr, fun w hw => ?_⟩, ?_, fun _ => ⟨ends, .inl sleeps.asleep⟩⟩
    · exact Bool.eq_false_iff.2 (List.filter_eq_nil_iff.1 hb w hw)
    · have timer : isReport (.timer d) = false := rfl
      simp [List.filter_append, hb, hr, timer]
  · obtain ⟨words, hout, hw⟩ := cancelled.reports
    exact ⟨words, hout, fun _ asleep => absurd asleep cancelled.not_asleep, by omega, fun one => by omega⟩

end Sys2Proof.Machine
end

section
/-! PROOFS. Whole cycles that fail: every attempt hits the read timeout (O53), or the connection is refused (O54). -/

namespace Sys2Proof.Machine

open Sys2Proof.Safety

/-! ### Runs -/

theorem runSteps_next {s t : State} (h : step s = .next t) (k : Nat) : runSteps (k + 1) s = runSteps k t := by
  simp only [runSteps, h]

/-- An event word of format `E0` that the state takes is one step. -/
theorem runSteps_event {s t : State} {code : Byte} {rest : List Arrival} {i : Instr}
    (hp : s.pending = bareEvent code :: rest) (hd : decodeEvent [code] = .ok i) (ht : transient s.ctlState = false)
    (h : exec i { s with pending := rest } = .next t) (k : Nat) : runSteps (k + 1) s = runSteps k t :=
  runSteps_next ((step_event_decoded hp ht hd).trans h) k

/-! ### An attempt that hits the read timeout -/

/-- What an attempt leaves that connected, sent its request and waited in vain (spec 44_controller.md R265, R267,
R273). -/
def timedOut (c : Cfg) (s : State) : State :=
  { s with
    ctlState := .retryableFailure, connOpen := true, req := some (requestOctets c.slave c.func c.start c.count),
    lastError := some .receiveTimeout,
    out := s.out ++ [.armDeadline c.timeout, .send (requestOctets c.slave c.func c.start c.count),
      .receive (BitVec.ofNat 16 s.par.rxMax)] }

theorem runSteps_timedOut {s : State} {c : Cfg} {rest : List Arrival} (hs : s.ctlState = .connecting)
    (hc : s.cfg = some c) (hl : cfgLegal c = true) (hd : s.deadlineExpired = false)
    (hp : s.pending = [bareEvent 0x20#8, bareEvent 0x23#8, bareEvent 0x27#8] ++ rest) (k : Nat) :
    runSteps (k + 3) s = runSteps k (timedOut c { s with pending := rest }) := by
  rw [runSteps_event hp rfl (by rw [hs]; rfl) (exec_evConnectOk hs hc hl),
    runSteps_event rfl rfl rfl (exec_evSendOk_inTime rfl (by simp [hd])),
    runSteps_event rfl rfl rfl (exec_evRxTimeout rfl)]
  simp [timedOut, openAndSend_eq]

/-- After the teardown nothing but the attempt's error and its words is left of it. -/
theorem tornDown_timedOut (c : Cfg) (s : State) :
    tornDown (timedOut c s) = { s with
      ctlState := .retryableFailure, connOpen := false, rxBuf := [], req := none, pres := none,
      deadlineExpired := false, lastError := some .receiveTimeout,
      out := s.out ++ timeoutAttemptWords c s.par.rxMax } := by
  simp [tornDown, timedOut, timeoutAttemptWords, teardownWords]

/-- The retry delay after an attempt that timed out (spec 44_controller.md R278, R282). -/
def awaitingRetry (c : Cfg) (s : State) : State :=
  { s with
    ctlState := .retryWait, connOpen := false, rxBuf := [], req := none, pres := none, deadlineExpired := false,
    lastError := some .receiveTimeout, out := s.out ++ timeoutAttemptWords c s.par.rxMax ++ [.timer c.retryDelay] }

theorem internalStep_timedOut_retry {s : State} {c : Cfg} (hc : s.cfg = some c) (hcancel : s.cancelPending = false)
    (hr : s.attempt.toNat < c.maxAttempts.toNat) : internalStep (timedOut c s) = .next (awaitingRetry c s) := by
  have unlatched : ¬ (timedOut c s).cancelPending = true := by simp [timedOut, hcancel]
  rw [internalStep_retry (s := timedOut c s) rfl hc hr, tearDownAndRetry_eq, if_neg unlatched, tornDown_timedOut]
  rfl

/-- A timed-out attempt with attempts left: the retry delay, then the next attempt (spec 44_controller.md R278, R282,
R284). -/
theorem runSteps_timedOut_retry {s : State} {c : Cfg} {rest : List Arrival} (hc : s.cfg = some c)
    (hcancel : s.cancelPending = false) (hr : s.attempt.toNat < c.maxAttempts.toNat)
    (hp : s.pending = bareEvent 0x29#8 :: rest) (k : Nat) :
    runSteps (k + 2) (timedOut c s) =
      runSteps k (freshAttempt c (s.attempt + 1#32) { awaitingRetry c s with pending := rest }) := by
  have waits := (step_event_transient (s := timedOut c s) hp rfl).trans (internalStep_timedOut_retry hc hcancel hr)
  rw [runSteps_next waits, runSteps_event (s := awaitingRetry c s) hp rfl rfl (exec_evTimerDone_retry hc rfl)]
  rfl

/-- One attempt that times out and is retried, from its OUT_CONNECT to the next. -/
theorem runSteps_retriedAttempt {s : State} {c : Cfg} {rest : List Arrival} (hs : s.ctlState = .connecting)
    (hc : s.cfg = some c) (hl : cfgLegal c = true) (hd : s.deadlineExpired = false) (hcancel : s.cancelPending = false)
    (hr : s.attempt.toNat < c.maxAttempts.toNat)
    (hp : s.pending = [bareEvent 0x20#8, bareEvent 0x23#8, bareEvent 0x27#8, bareEvent 0x29#8] ++ rest) (k : Nat) :
    runSteps (k + 5) s =
      runSteps k (freshAttempt c (s.attempt + 1#32) { awaitingRetry c s with pending := rest }) := by
  have timesOut := runSteps_timedOut hs hc hl hd (rest := bareEvent 0x29#8 :: rest) hp (k + 2)
  exact timesOut.trans
    (runSteps_timedOut_retry (s := { s with pending := bareEvent 0x29#8 :: rest }) hc hcancel hr rfl k)

/-- A timed-out last attempt: the report, then the poll sleep (spec 44_controller.md R278, R283). -/
theorem runSteps_timedOut_last {s : State} {c : Cfg} (hc : s.cfg = some c) (hcancel : s.cancelPending = false)
    (hr : s.attempt = c.maxAttempts) (hp : s.pending = []) :
    runSteps 1 (timedOut c s) = .next { s with
      ctlState := .pollSleep, connOpen := false, rxBuf := [], req := none, pres := none, deadlineExpired := false,
      lastError := some .receiveTimeout,
      out := s.out ++ timeoutAttemptWords c s.par.rxMax ++
        [.reportFailure .receiveTimeout c.maxAttempts, .timer c.pollInterval] } := by
  have unlatched : ¬ (timedOut c s).cancelPending = true := by simp [timedOut, hcancel]
  have sleeps := (step_pending_nil (s := timedOut c s) hp).trans (internalStep_lastAttempt rfl hc (hr ▸ le_rfl) rfl)
  rw [reportAndSleep_eq, if_neg unlatched, tornDown_timedOut] at sleeps
  rw [runSteps_next sleeps, ← hr]
  rfl

/-- Settles O53, by induction on the attempts that are left after this one. -/
theorem attemptCeiling : Obligations.AttemptCeiling := by
  intro k
  induction k with
  | zero =>
    intro s c hs hc hl ha ho hd hcancel hp
    have last : s.attempt = c.maxAttempts := BitVec.eq_of_toNat_eq ha
    rw [runSteps_timedOut hs hc hl hd (rest := []) hp 1,
      runSteps_timedOut_last (s := { s with pending := [] }) hc hcancel last rfl]
    simp [timeoutCycleWords, last]
  | succ k ih =>
    intro s c hs hc hl ha ho hd hcancel hp
    have hmax := c.maxAttempts.isLt
    have remain : s.attempt.toNat < c.maxAttempts.toNat := by omega
    have next : (s.attempt + 1#32).toNat + k = c.maxAttempts.toNat := by
      rw [BitVec.toNat_add]
      simp only [BitVec.toNat_ofNat]
      omega
    rw [show 5 * (k + 1) + 4 = 5 * k + 4 + 5 by ring, runSteps_retriedAttempt hs hc hl hd hcancel remain hp]
    have remaining := ih (freshAttempt c (s.attempt + 1#32) { awaitingRetry c s with pending := timeoutScript k }) c rfl hc hl
      next rfl rfl hcancel rfl
    rw [remaining]
    simp [freshAttempt, awaitingRetry, timeoutCycleWords]

/-! ### A refused connection -/

/-- Settles O54: the refusal is fatal, and the one internal step of FATAL_FAILURE reports it. -/
theorem refusalShortCircuit : Obligations.RefusalShortCircuit := by
  intro s c hs hc ho hcancel hp
  have reports := (step_pending_nil (s := { s with
    lastError := some .connectionRefused, ctlState := .fatalFailure, pending := [] }) rfl).trans
      (internalStep_fatalFailure rfl hc)
  rw [reportAndSleep_eq, if_neg (by simp [hcancel])] at reports
  rw [runSteps_event hp rfl (by rw [hs]; rfl) (exec_evConnectRefused hs), runSteps_next reports]
  simp [runSteps, tornDown, teardownWords, ho]

end Sys2Proof.Machine
end

section
/-! PROOFS. Taking a failure (O41): the class of an error kind by its code. -/

namespace Sys2Proof.Machine

open Sys2Proof.Safety

/-! ### The classes of spec 60_exceptions.md R322 as ranges of codes -/

theorem errClass_retryable_iff (e : Err) :
    errClass e = .retryable ↔ 2 ≤ (errCode e).toNat ∧ (errCode e).toNat ≤ 7 := by
  cases e <;> simp [errClass, errCode]

theorem errClass_fatal_iff (e : Err) : errClass e = .fatal ↔ errCode e = 8#8 := by
  cases e <;> simp [errClass, errCode]

theorem errClass_construction_iff (e : Err) : errClass e = .constructionTime ↔ errCode e = 1#8 := by
  cases e <;> simp [errClass, errCode]

/-- Settles O41: the code gives the class, and the class the move. -/
theorem failureEntry : Obligations.FailureEntry := by
  intro e s
  refine ⟨fun retryable => ?_, fun fatal => ?_, fun construction => ?_⟩
  · exact raiseError_retryable s ((errClass_retryable_iff e).2 retryable)
  · exact raiseError_fatal s ((errClass_fatal_iff e).2 fatal)
  · rw [raiseError_construction s ((errClass_construction_iff e).2 construction)]
    exact stop_eq_stoppedState .misconfigured s

end Sys2Proof.Machine
end
